-- ==== Sys2Proof/Word.lean ====
section
/-! DEFINITION. The widths the spec fixes (00_scope.md R13, R14): bytes, 32-bit words, and the 7-bit
scrambler state. Everything is unsigned. -/

namespace Sys2Proof

/-- A byte, 0..255 (R14). -/
abbrev Byte := BitVec 8

/-- A 32-bit value: the command word, RESULT, the sync word, the CRC and every counter (R13, R301). -/
abbrev Word := BitVec 32

/-- The scrambler state, 7 bits (R13, R400). -/
abbrev ScrState := BitVec 7

end Sys2Proof
end

