-- ==== Sys2Proof/Config.lean ====
section
/-! DEFINITION. The build-time configuration record of 00_scope.md R8 to R12, and its reference value.
The spec leaves no value of this block open (93_implementation_defined.md fixes every one), so there is no
free value here; the one open number is `maxSlice` (92_eei_decisions.md D46). -/

namespace Sys2Proof

/-- The configuration record `cfg` of R9 and R10. `P` is the length of `preamble`, so that the pattern
`PREAMBLE[0..P-1]` has exactly `P` bytes by construction (log entry 12). -/
structure Config where
  /-- `PREAMBLE[0..P-1]`: the preamble byte pattern. -/
  preamble : List Byte
  /-- `SYNC`: the 32-bit sync word. -/
  sync : Word
  /-- `SEED`: the scrambler seed. -/
  seed : ScrState
  /-- `L`: payload unit size in bytes. -/
  L : Nat
  /-- `G`: erasure group size, the data slots of one group. -/
  G : Nat
  /-- `T`: soft-sync bit-error tolerance. -/
  T : Nat
  /-- `F`: total frame length in bytes. -/
  F : Nat
  /-- `N_TRAIN`: TRAINING frames emitted. -/
  nTrain : Nat
  /-- `N_START`: START frames emitted. -/
  nStart : Nat
  /-- `N_END`: END frames emitted. -/
  nEnd : Nat
  /-- `EOS_PATTERN[0..L-1]`: the end-of-stream sentinel chunk. -/
  eos : List Byte
  /-- `RXCAP`: decoder receive window capacity in bytes. -/
  rxcap : Nat
  /-- `MAX_SLICE` (92 D46): the longest input slice the host presents. -/
  maxSlice : Nat
deriving DecidableEq, Repr

namespace Config

/-- `P`, the preamble length in bytes (R10). -/
def P (c : Config) : Nat := c.preamble.length

/-- `R = HDR_LEN + FEC_LEN + CRC_LEN = 3 + 2*L + 4`, the scrambled region length (R12). -/
def R (c : Config) : Nat := 3 + 2 * c.L + 4

/-- `PAD_LEN = F - P - SYNC_LEN - R` (R12). -/
def padLen (c : Config) : Nat := c.F - c.P - 4 - c.R

/-- `DEC_MAX_OUT = G*L`, the most bytes one decoder command can emit (R12). -/
def decMaxOut (c : Config) : Nat := c.G * c.L

/-- The reference value of every parameter (R10). `maxSlice`, which the spec leaves open, takes the largest
value its constraint admits: DESIGN CHOICE, log entry 8. -/
def reference : Config where
  preamble := List.replicate 16 0xAA
  sync := 0x1ACFFC1D
  seed := 0x7F
  L := 10
  G := 4
  T := 2
  F := 48
  nTrain := 4
  nStart := 3
  nEnd := 3
  eos := [0x45, 0x4F, 0x53, 0x00, 0xFF, 0x45, 0x4F, 0x53, 0x00, 0xFF]
  rxcap := 96
  maxSlice := 268435455

end Config

end Sys2Proof
end

