-- ==== Sys2Proof/Syntax.lean ====
section
/-! DEFINITION. The commands of the block, one constructor per row of spec/opcode_table.json
(30_encoding.md R304), with the operands of R302 at their widths. The input slice `IN` and the capacity
`CAP` of a command are not in its word (R300): they are the transaction's, held by the state. -/

namespace Sys2Proof

/-- The sixteen commands (R304), their operands as R302 assembles them. -/
inductive Instr where
  /-- NOP (48_control.md R880). -/
  | nop
  /-- SCR.RESET (40_scrambler.md R410). -/
  | scrReset
  /-- SCR.NEXT (R411). -/
  | scrNext
  /-- SCR.PROCESS (R412); `rst` selects the reset first. -/
  | scrProcess (rst : Bool)
  /-- HAM.ENC (41_hamming74.md R460). -/
  | hamEnc (nib : BitVec 4)
  /-- HAM.DEC (R461). -/
  | hamDec (cw : BitVec 7)
  /-- CRC32 (42_crc32.md R510). -/
  | crc32
  /-- FRAME.BUILD (43_frame_format.md R570). -/
  | frameBuild (type gid sid : BitVec 8)
  /-- FRAME.PARSE (R571): bit shift `s`, byte offset `o`. -/
  | frameParse (s : BitVec 3) (o : BitVec 16)
  /-- SYNC.SEARCH (44_sync_search.md R610). -/
  | syncSearch
  /-- ENC.RESET (46_encoder_fsm.md R720). -/
  | encReset
  /-- ENC.FEED (R721). -/
  | encFeed
  /-- ENC.STAT (R730). -/
  | encStat (idx : BitVec 8)
  /-- DEC.RESET (47_decoder_fsm.md R820). -/
  | decReset
  /-- DEC.FEED (R821). -/
  | decFeed
  /-- DEC.STAT (R830). -/
  | decStat (idx : BitVec 8)
deriving DecidableEq, Repr

end Sys2Proof
end

