-- ==== Sys2Proof/Machine/State.lean ====
section
/-! DEFINITION. The state of the block, every register of 10_state.md, the transaction interface of
30_encoding.md, the reasons a step may stop, and the state after power-on reset at the reference
configuration. Plain data throughout. -/

namespace Sys2Proof.Machine

/-- `ENC_STATE` (10_state.md R110). Codes 5..7 never occur and are unrepresentable (93 E4, log entry 17). -/
inductive EncState where
  /-- TRAINING, code 0: emits TRAINING frames. -/
  | training
  /-- START, code 1: emits START frames. -/
  | start
  /-- DATA, code 2: consumes input chunks. -/
  | data
  /-- END, code 3: emits END frames. -/
  | endPhase
  /-- FINISHED, code 4: terminal. -/
  | finished
deriving DecidableEq, Repr

/-- `DEC_STATE` (R130). Code 3 never occurs and is unrepresentable (93 E4, log entry 17). -/
inductive DecState where
  /-- TRAINING, code 0, inactive. -/
  | training
  /-- RECEIVING, code 1, active. -/
  | receiving
  /-- FINISHED, code 2, terminal. -/
  | finished
deriving DecidableEq, Repr

/-- The five frame types (30_encoding.md R320). -/
inductive FrameType where
  /-- `TYPE_TRAINING`, 0x01. -/
  | training
  /-- `TYPE_START`, 0x02. -/
  | start
  /-- `TYPE_DATA`, 0x03. -/
  | data
  /-- `TYPE_PARITY`, 0x04. -/
  | parity
  /-- `TYPE_END`, 0x05. -/
  | endFrame
deriving DecidableEq, Repr

/-- The three units commands are addressed to (00_scope.md R3, the unit column of 30_encoding.md R304). -/
inductive CmdUnit where
  /-- The diagnostic unit. -/
  | diagnostic
  /-- The encoder unit. -/
  | encoder
  /-- The decoder unit. -/
  | decoder
deriving DecidableEq, Repr

/-- The response signal SIG (R307). Value 3 is never given and is unrepresentable. -/
inductive Signal where
  /-- CONT, code 0. -/
  | cont
  /-- DONE, code 1: end of stream, given only in FINISHED. -/
  | done
  /-- ILLEGAL, code 2: given only by R311. -/
  | illegal
deriving DecidableEq, Repr

/-- A response `(CONSUMED, OUT, SIG, RESULT)` (R305). -/
structure Response where
  /-- CONSUMED: how many bytes of `IN` the command took. -/
  consumed : Nat
  /-- OUT: the produced bytes. -/
  out : List Byte
  /-- SIG: the response signal. -/
  sig : Signal
  /-- RESULT: the 32-bit result (R308). -/
  result : Word
deriving DecidableEq, Repr

/-- A command as the host issues it: `(CMD, IN, CAP)` (R300), with the units on which an earlier command is
still in progress at that moment (20_memory.md R207, log entry 7). -/
structure Command where
  /-- CMD: the command word. -/
  word : Word
  /-- IN: the input slice. -/
  inSlice : List Byte
  /-- CAP: the output capacity. -/
  cap : Nat
  /-- The units that are busy when the command is issued. -/
  busy : List CmdUnit
deriving DecidableEq, Repr

/-- What the host may present to the block. -/
inductive HostEvent where
  /-- The block's reset input (70_reset_and_hazards.md R950). -/
  | powerOnReset
  /-- A command (R300). -/
  | command (c : Command)
deriving DecidableEq, Repr

/-- The encoder unit (10_state.md R110 to R117). -/
structure EncUnit where
  /-- `ENC_STATE` (R110). -/
  state : EncState
  /-- `ENC_PHASE_CNT` (R111). -/
  phaseCnt : Word
  /-- `ENC_GROUP_ID` (R112). -/
  groupId : Byte
  /-- `ENC_SLOT_CNT` (R113). -/
  slotCnt : Byte
  /-- `ENC_PARITY_ACC`, `L` bytes (R114). -/
  parityAcc : List Byte
  /-- `ENC_STAGE`, `L` bytes (R115). -/
  stage : List Byte
  /-- `ENC_STAGE_CNT`, 0..L (R115). -/
  stageCnt : Nat
  /-- `ENC_SCR` (R116). -/
  scr : ScrState
  /-- `ENC_CNT_TRAINING` (R117). -/
  cntTraining : Word
  /-- `ENC_CNT_START` (R117). -/
  cntStart : Word
  /-- `ENC_CNT_DATA` (R117). -/
  cntData : Word
  /-- `ENC_CNT_PARITY` (R117). -/
  cntParity : Word
  /-- `ENC_CNT_END` (R117). -/
  cntEnd : Word
deriving DecidableEq, Repr

/-- The decoder unit (10_state.md R130 to R135). -/
structure DecUnit where
  /-- `DEC_STATE` (R130). -/
  state : DecState
  /-- `DEC_CUR_GROUP_VALID` (R131). -/
  curGroupValid : Bool
  /-- `DEC_CUR_GROUP` (R131). -/
  curGroup : Byte
  /-- `DEC_SLOT[0..G]`, `G+1` slots of `L` bytes (R132). -/
  slot : List (List Byte)
  /-- `DEC_PRESENT`, `G+1` bits, bit `i` at index `i` (R132). -/
  present : List Bool
  /-- `DEC_RX`, the receive window; `DEC_RX_LEN` is its length (R133). -/
  rx : List Byte
  /-- `DEC_SCR` (R134). -/
  scr : ScrState
  /-- `DEC_CNT_TRAINING` (R135). -/
  cntTraining : Word
  /-- `DEC_CNT_START` (R135). -/
  cntStart : Word
  /-- `DEC_CNT_DATA` (R135). -/
  cntData : Word
  /-- `DEC_CNT_PARITY` (R135). -/
  cntParity : Word
  /-- `DEC_CNT_END` (R135). -/
  cntEnd : Word
  /-- `DEC_CNT_RECOVERED` (R135). -/
  cntRecovered : Word
  /-- `DEC_CNT_CRC_FAIL` (R135). -/
  cntCrcFail : Word
deriving DecidableEq, Repr

/-- The block: its configuration (constant, log entry 1), its three units, and the transaction interface
(log entries 2 to 4). -/
structure State where
  /-- The configuration record (00_scope.md R9); no step writes it. -/
  cfg : Config
  /-- The encoder unit. -/
  enc : EncUnit
  /-- The decoder unit. -/
  dec : DecUnit
  /-- `DIAG_SCR`, the diagnostic unit's scrambler (R140). -/
  diagScr : ScrState
  /-- `IN` of the command being executed (R18, R300). -/
  inSlice : List Byte
  /-- `CAP`, `m`, of the command being executed (R18, R300). -/
  cap : Nat
  /-- What the host presents next, oldest first (R210). -/
  pending : List HostEvent
  /-- The response to the last command (R305); none before the first. -/
  response : Option Response
deriving DecidableEq, Repr

/-- Why the block stops with a fault: never. The block has no fault (60_exceptions.md R900: "the core has no
fatal error class"), so the type has no constructor (log entry 14). -/
inductive Fault where
deriving DecidableEq, Repr

/-- Why the model has no behaviour for a step. -/
inductive Refusal where
  /-- An arm of `exec` without a meaning. No arm raises it: every command has its meaning. Safe. -/
  | notModelled (mnemonic : String)
  /-- The configuration breaks 00_scope.md R11 and defines no block. Raised by the step (R9, R903, R905). Safe. -/
  | badConfiguration
  /-- A command to a unit on which another command is in progress. Raised by the step (R207, R905). Safe. -/
  | unitBusy
  /-- An input slice longer than the host's bound `MAX_SLICE` (93 H3), raised by the step; and a slice of `2^28`
  bytes or more to SYNC.SEARCH (R905), raised by that command. Safe. -/
  | sliceTooLong
deriving DecidableEq, Repr

/-- The state right after power-on reset at the reference configuration (10_state.md R160,
70_reset_and_hazards.md R950, R951), nothing presented by the host yet. -/
def State.reset : State where
  cfg := Config.reference
  enc :=
    { state := .training, phaseCnt := 0, groupId := 0, slotCnt := 0,
      parityAcc := List.replicate 10 0, stage := List.replicate 10 0, stageCnt := 0, scr := 0x7F,
      cntTraining := 0, cntStart := 0, cntData := 0, cntParity := 0, cntEnd := 0 }
  dec :=
    { state := .training, curGroupValid := false, curGroup := 0,
      slot := List.replicate 5 (List.replicate 10 0), present := List.replicate 5 false,
      rx := [], scr := 0x7F, cntTraining := 0, cntStart := 0, cntData := 0, cntParity := 0,
      cntEnd := 0, cntRecovered := 0, cntCrcFail := 0 }
  diagScr := 0x7F
  inSlice := []
  cap := 0
  pending := []
  response := none

end Sys2Proof.Machine
end

