-- ==== Sys2Proof/Machine/Flags.lean ====
section
/-! DEFINITION. The block has no condition codes (10_state.md R102). What it has for flags is in its responses:
the numeric codes of the states and signals, and the formats of RESULT (30_encoding.md R307, R308, R320). -/

namespace Sys2Proof.Machine

/-- The code of an encoder state (R110). -/
def EncState.code : EncState → BitVec 3
  | .training => 0
  | .start => 1
  | .data => 2
  | .endPhase => 3
  | .finished => 4

/-- The code of a decoder state (R130). -/
def DecState.code : DecState → BitVec 2
  | .training => 0
  | .receiving => 1
  | .finished => 2

/-- The code of a response signal (R307). -/
def Signal.code : Signal → BitVec 2
  | .cont => 0
  | .done => 1
  | .illegal => 2

/-- The type byte of a frame type (R320). -/
def FrameType.code : FrameType → Byte
  | .training => 0x01
  | .start => 0x02
  | .data => 0x03
  | .parity => 0x04
  | .endFrame => 0x05

/-- The frame type a type byte stands for; 0x00 and 0x06..0xFF are no type codes (R320, R321). -/
def FrameType.ofCode (b : Byte) : Option FrameType :=
  if b = 0x01 then some .training
  else if b = 0x02 then some .start
  else if b = 0x03 then some .data
  else if b = 0x04 then some .parity
  else if b = 0x05 then some .endFrame
  else none

/-- The RESULT of a command answered NOT_PERFORMED (R308, R309). -/
def notPerformedResult : Word := 0xFFFFFFFF

/-- The RESULT of a performed FRAME.PARSE whose buffer is short: bit 25 alone (43_frame_format.md R571). -/
def shortResult : Word := 1 <<< 25

/-- The RESULT of a performed FRAME.PARSE: bits 7:0 type, 15:8 group_id, 23:16 slot_id, 24 crc_ok (R308, R571). -/
def parseResult (type gid sid : Byte) (crcOk : Bool) : Word :=
  type.setWidth 32 ||| gid.setWidth 32 <<< 8 ||| sid.setWidth 32 <<< 16 |||
    (BitVec.ofBool crcOk).setWidth 32 <<< 24

/-- The RESULT of a SYNC.SEARCH that found `(o, s)`: bit 31 and the bit position `8*o + s` (R308,
44_sync_search.md R610). -/
def foundResult (o s : Nat) : Word := (1 : Word) <<< 31 ||| BitVec.ofNat 32 (8 * o + s)

/-- `DEC_PRESENT[31:0]`: slot `i` in bit `i`, bits above `G` read 0 (10_state.md R151). -/
def presentWord (present : List Bool) : Word :=
  (List.range 32).foldl
    (fun acc i => if present.getD i false then acc ||| (1 : Word) <<< i else acc) 0

end Sys2Proof.Machine
end

