-- ==== Sys2Proof/Machine/Operands.lean ====
section
/-! DEFINITION. A command's operands beside those of its word: the unit it is addressed to (30_encoding.md
R304), its input slice `IN` of length `n` and its capacity `m` (00_scope.md R18). -/

namespace Sys2Proof.Machine

/-- The unit a command is addressed to, none for NOP (the unit column of R304). -/
def unitOf : Instr → Option CmdUnit
  | .nop => none
  | .scrReset => some .diagnostic
  | .scrNext => some .diagnostic
  | .scrProcess _ => some .diagnostic
  | .hamEnc _ => some .diagnostic
  | .hamDec _ => some .diagnostic
  | .crc32 => some .diagnostic
  | .frameBuild _ _ _ => some .diagnostic
  | .frameParse _ _ => some .diagnostic
  | .syncSearch => some .diagnostic
  | .encReset => some .encoder
  | .encFeed => some .encoder
  | .encStat _ => some .encoder
  | .decReset => some .decoder
  | .decFeed => some .decoder
  | .decStat _ => some .decoder

/-- `n = len(IN)` (R18). -/
def State.n (s : State) : Nat := s.inSlice.length

/-- `m`, the output capacity (R18). -/
def State.m (s : State) : Nat := s.cap

/-- `IN[0..k-1]` (R16). -/
def State.inTake (s : State) (k : Nat) : List Byte := s.inSlice.take k

end Sys2Proof.Machine
end

