-- ==== Sys2Proof/Machine/Ops.lean ====
section
/-! DEFINITION. The operations every command shares: ending with a response, the two abnormal answers, and
writing one unit's state. The block takes no exception and returns from none (60_exceptions.md R900, R911);
the two abnormal answers of R904 are what stands in their place. -/

namespace Sys2Proof.Machine

/-- The three outcomes of a command of this block. -/
abbrev Result := Host.Outcome State Fault Refusal

/-- `respond(c, out, sig, result)` (00_scope.md R18, 30_encoding.md R306). -/
def State.respond (s : State) (c : Nat) (out : List Byte) (sig : Signal) (result : Word) : State :=
  { s with response := some ⟨c, out, sig, result⟩ }

/-- The answer ILLEGAL: no state change, `respond(0, [], ILLEGAL, 0)` (R311, R904). -/
def State.answerIllegal (s : State) : State := s.respond 0 [] .illegal 0

/-- The answer NOT_PERFORMED: no state change, `respond(0, [], CONT, 0xFFFFFFFF)` (R309, R904). -/
def State.answerNotPerformed (s : State) : State := s.respond 0 [] .cont notPerformedResult

/-- `DIAG_SCR <- v` (10_state.md R140). -/
def State.setDiagScr (s : State) (v : ScrState) : State := { s with diagScr := v }

/-- A command of the encoder unit ends: its new state and its response take effect together (R17, R207). -/
def State.commitEnc (s : State) (p : EncUnit × Response) : State :=
  { s with enc := p.1, response := some p.2 }

/-- A command of the decoder unit ends: its new state and its response take effect together (R17, R207). -/
def State.commitDec (s : State) (p : DecUnit × Response) : State :=
  { s with dec := p.1, response := some p.2 }

/-- A status command answers the register at its index, and ILLEGAL where the index is not listed
(46_encoder_fsm.md R730, 47_decoder_fsm.md R830). -/
def State.answerStatus (s : State) : Option Word → State
  | some v => s.respond 0 [] .cont v
  | none => s.answerIllegal

end Sys2Proof.Machine
end

