-- ==== Sys2Proof/Machine/Control.lean ====
section
/-! DEFINITION. The control command (48_control.md). -/

namespace Sys2Proof.Machine

/-- NOP (R880): no state changes in any unit. -/
def execNop (s : State) : Result := .next (s.respond 0 [] .cont 0)

end Sys2Proof.Machine
end

