-- ==== Sys2Proof/Machine/Bits.lean ====
section
/-! DEFINITION. Bytes, bits and their order: the notation of 00_scope.md R14 and R16, the channel bit order of
20_memory.md R203 and the big-endian fields of R204. -/

namespace Sys2Proof.Machine

/-- `zeros(n)`: `n` zero bytes (R16). -/
def zeros (n : Nat) : List Byte := List.replicate n 0

/-- `xor` on byte sequences, element by element (R14). -/
def xorBytes (a b : List Byte) : List Byte := List.zipWith (· ^^^ ·) a b

/-- The one bits among the `k` low bits of `v`. -/
def popBits : Nat → Nat → Nat
  | 0, _ => 0
  | k + 1, v => v % 2 + popBits k (v / 2)

/-- `popcount(v)`: the number of one bits of a 32-bit value (R14). -/
def popcount (v : Word) : Nat := popBits 32 v.toNat

/-- `be32(v) = [v[31:24], v[23:16], v[15:8], v[7:0]]` (R204). -/
def be32 (v : Word) : List Byte :=
  [v.extractLsb' 24 8, v.extractLsb' 16 8, v.extractLsb' 8 8, v.extractLsb' 0 8]

/-- `from_be32([a,b,c,d]) = (a << 24) | (b << 16) | (c << 8) | d` (R204), used on sequences of four bytes only. -/
def fromBe32 (x : List Byte) : Word :=
  (x.getD 0 0).setWidth 32 <<< 24 ||| (x.getD 1 0).setWidth 32 <<< 16 |||
    (x.getD 2 0).setWidth 32 <<< 8 ||| (x.getD 3 0).setWidth 32

/-- `bit(buf, p)`: bit `7 - (p mod 8)` of byte `p div 8` (R203, 44_sync_search.md R600). -/
def bitAt (buf : List Byte) (p : Nat) : Bool := (buf.getD (p / 8) 0).getLsbD (7 - p % 8)

end Sys2Proof.Machine
end

