-- ==== Sys2Proof/Machine/Erasure.lean ====
section
/-! DEFINITION. erasure_group_buffer_and_parity_reconstruct (45_erasure_group.md): the operations on the
decoder's group buffer. -/

namespace Sys2Proof.Machine

/-- Slot `i` is present (R655). -/
def DecUnit.has (d : DecUnit) (i : Nat) : Bool := d.present.getD i false

/-- `DEC_SLOT[i]` (R655). -/
def DecUnit.slotAt (d : DecUnit) (i : Nat) : List Byte := d.slot.getD i []

/-- `group_store(sid, payload)` (R656): a slot_id above `G` is dropped. -/
def groupStore (cfg : Config) (sid : Byte) (payload : List Byte) (d : DecUnit) : DecUnit :=
  if sid.toNat ≤ cfg.G then
    { d with slot := d.slot.set sid.toNat payload, present := d.present.set sid.toNat true }
  else d

/-- `group_clear()` (R657): `DEC_PRESENT <- 0`, `DEC_SLOT` unchanged. -/
def groupClear (cfg : Config) (d : DecUnit) : DecUnit :=
  { d with present := List.replicate (cfg.G + 1) false }

/-- `D`, the present data slots, ascending (R660). -/
def presentData (cfg : Config) (d : DecUnit) : List Nat := (List.range cfg.G).filter d.has

/-- The concatenation of the slots `is`, in that order (R660). -/
def slotBytes (d : DecUnit) (is : List Nat) : List Byte := (is.map d.slotAt).flatten

/-- The one data slot that is not present, in R660's case 2. -/
def missingSlot (cfg : Config) (d : DecUnit) : Nat :=
  ((List.range cfg.G).find? (fun i => !d.has i)).getD 0

/-- `r`: the parity slot XORed with every present data slot (R660, case 2). -/
def rebuiltSlot (cfg : Config) (d : DecUnit) : List Byte :=
  (presentData cfg d).foldl (fun r i => xorBytes r (d.slotAt i)) (d.slotAt cfg.G)

/-- Case 2 of R660: the missing slot is rebuilt and `DEC_CNT_RECOVERED` incremented (R662). -/
def recoverSlot (cfg : Config) (d : DecUnit) : DecUnit :=
  { d with
    slot := d.slot.set (missingSlot cfg d) (rebuiltSlot cfg d)
    cntRecovered := d.cntRecovered + 1 }

/-- `group_flush() -> out` (R660): the buffered group's data, then the buffer is cleared. -/
def groupFlush (cfg : Config) (d : DecUnit) : DecUnit × List Byte :=
  if (presentData cfg d).length = cfg.G then
    (groupClear cfg d, slotBytes d (List.range cfg.G))
  else if (presentData cfg d).length = cfg.G - 1 ∧ d.has cfg.G = true then
    (groupClear cfg (recoverSlot cfg d), slotBytes (recoverSlot cfg d) (List.range cfg.G))
  else
    (groupClear cfg d, slotBytes d (presentData cfg d))

end Sys2Proof.Machine
end

