-- ==== Sys2Proof/Machine/Crc.lean ====
section
/-! DEFINITION. CRC32_generator (42_crc32.md). -/

namespace Sys2Proof.Machine

/-- One round of R501's inner loop: shift right, and XOR 0xEDB88320 when bit 0 was set. -/
def crcShift (r : Word) : Word := if r.getLsbD 0 then r >>> 1 ^^^ 0xEDB88320 else r >>> 1

/-- `k` rounds of the inner loop. -/
def crcRounds : Nat → Word → Word
  | 0, r => r
  | k + 1, r => crcRounds k (crcShift r)

/-- One round of the outer loop: a data byte enters the register (R501). -/
def crcByte (r : Word) (b : Byte) : Word := crcRounds 8 (r ^^^ b.setWidth 32)

/-- `crc32(data)` (R500, R501): initial register and final XOR 0xFFFFFFFF. -/
def crc32 (data : List Byte) : Word := data.foldl crcByte 0xFFFFFFFF ^^^ 0xFFFFFFFF

/-- CRC32 (R510): consumes the whole slice, the value returns in RESULT. -/
def execCrc32 (s : State) : Result := .next (s.respond s.n [] .cont (crc32 s.inSlice))

end Sys2Proof.Machine
end

