-- ==== Sys2Proof/Machine/Hamming.lean ====
section
/-! DEFINITION. Hamming74_encoder_decoder (41_hamming74.md): the code, its two read-only tables (10_state.md
R145), the FEC coding of payloads, and the two commands. -/

namespace Sys2Proof.Machine

/-- `ham_enc(d)` (R450): the nibble in bits 6:3, three parity bits in bits 2:0. -/
def hamEnc (d : BitVec 4) : BitVec 7 :=
  let p2 := d.getLsbD 3 ^^ d.getLsbD 2 ^^ d.getLsbD 0
  let p1 := d.getLsbD 3 ^^ d.getLsbD 1 ^^ d.getLsbD 0
  let p0 := d.getLsbD 2 ^^ d.getLsbD 1 ^^ d.getLsbD 0
  d.setWidth 7 <<< 3 ||| (BitVec.ofBool p2).setWidth 7 <<< 2 |||
    (BitVec.ofBool p1).setWidth 7 <<< 1 ||| (BitVec.ofBool p0).setWidth 7

/-- `HAM_ENC_ROM[0..15]`, the table of R451. -/
def hamEncRom : List (BitVec 7) :=
  [0x00, 0x0F, 0x13, 0x1C, 0x25, 0x2A, 0x36, 0x39] ++
  [0x46, 0x49, 0x55, 0x5A, 0x63, 0x6C, 0x70, 0x7F]

/-- `HAM_DEC_ROM[0..127]`, the normative table of R453, one row a line. -/
def hamDecRom : List (BitVec 4) :=
  [0x0, 0x0, 0x0, 0x2, 0x0, 0x4, 0x8, 0x1, 0x0, 0x9, 0x5, 0x1, 0x3, 0x1, 0x1, 0x1] ++
  [0x0, 0x2, 0x2, 0x2, 0x3, 0xA, 0x6, 0x2, 0x3, 0x7, 0xB, 0x2, 0x3, 0x3, 0x3, 0x1] ++
  [0x0, 0x4, 0x5, 0xC, 0x4, 0x4, 0x6, 0x4, 0x5, 0x7, 0x5, 0x5, 0xD, 0x4, 0x5, 0x1] ++
  [0xE, 0x7, 0x6, 0x2, 0x6, 0x4, 0x6, 0x6, 0x7, 0x7, 0x5, 0x7, 0x3, 0x7, 0x6, 0xF] ++
  [0x0, 0x9, 0x8, 0xC, 0x8, 0xA, 0x8, 0x8, 0x9, 0x9, 0xB, 0x9, 0xD, 0x9, 0x8, 0x1] ++
  [0xE, 0xA, 0xB, 0x2, 0xA, 0xA, 0x8, 0xA, 0xB, 0x9, 0xB, 0xB, 0x3, 0xA, 0xB, 0xF] ++
  [0xE, 0xC, 0xC, 0xC, 0xD, 0x4, 0x8, 0xC, 0xD, 0x9, 0x5, 0xC, 0xD, 0xD, 0xD, 0xF] ++
  [0xE, 0xE, 0xE, 0xC, 0xE, 0xA, 0x6, 0xF, 0xE, 0x7, 0xB, 0xF, 0xD, 0xF, 0xF, 0xF]

/-- `ham_dec(c)` for any byte `c`: the table entry of `c and 0x7F` (R453). -/
def hamDec (c : Byte) : BitVec 4 := hamDecRom.getD (c &&& 0x7F).toNat 0

/-- `fec_enc_byte(b)` (R456): the high nibble's codeword first, bit 7 of each zero. -/
def fecEncByte (b : Byte) : List Byte :=
  [(hamEnc (b.extractLsb' 4 4)).setWidth 8, (hamEnc (b.extractLsb' 0 4)).setWidth 8]

/-- `fec_dec_pair(c_hi, c_lo) = (ham_dec(c_hi) << 4) | ham_dec(c_lo)` (R456). -/
def fecDecPair (hi lo : Byte) : Byte := (hamDec hi).setWidth 8 <<< 4 ||| (hamDec lo).setWidth 8

/-- `fec_enc(payload)` (R456). -/
def fecEnc : List Byte → List Byte
  | [] => []
  | b :: bs => fecEncByte b ++ fecEnc bs

/-- `fec_dec(f)` (R456): one byte a pair; a last unpaired byte is dropped. -/
def fecDec : List Byte → List Byte
  | hi :: lo :: rest => fecDecPair hi lo :: fecDec rest
  | _ => []

/-- HAM.ENC (R460): `HAM_ENC_ROM[nib]`. -/
def execHamEnc (nib : BitVec 4) (s : State) : Result :=
  .next (s.respond 0 [] .cont ((hamEncRom.getD nib.toNat 0).setWidth 32))

/-- HAM.DEC (R461): `HAM_DEC_ROM[A8 and 0x7F]`. -/
def execHamDec (cw : BitVec 7) (s : State) : Result :=
  .next (s.respond 0 [] .cont ((hamDecRom.getD cw.toNat 0).setWidth 32))

end Sys2Proof.Machine
end

