-- ==== Sys2Proof/Machine/Scrambler.lean ====
section
/-! DEFINITION. LFSR_scrambler (40_scrambler.md): the generator all three units use, and the three commands of
the diagnostic scrambler. -/

namespace Sys2Proof.Machine

/-- `lfsr_step(s) -> (bit, s')` (R401): output the low bit, shift right, feed `s[0] xor s[4]` into bit 6. -/
def lfsrStep (s : ScrState) : Bool × ScrState :=
  (s.getLsbD 0, s >>> 1 ||| (BitVec.ofBool (s.getLsbD 0 ^^ s.getLsbD 4)).setWidth 7 <<< 6)

/-- `k` rounds of R402's loop: `byte = (byte << 1) | bit`. -/
def scrBits : Nat → Byte → ScrState → Byte × ScrState
  | 0, byte, s => (byte, s)
  | k + 1, byte, s =>
    scrBits k (byte <<< 1 ||| (BitVec.ofBool (lfsrStep s).1).setWidth 8) (lfsrStep s).2

/-- `scr_next_byte(s) -> (byte, s')` (R402): eight steps, the first bit most significant. -/
def scrNextByte (s : ScrState) : Byte × ScrState := scrBits 8 0 s

/-- `scramble(data, s) -> (data', s')` (R403): each byte XORed with the next byte of the keystream. -/
def scramble : List Byte → ScrState → List Byte × ScrState
  | [], s => ([], s)
  | b :: bs, s =>
    ((b ^^^ (scrNextByte s).1) :: (scramble bs (scrNextByte s).2).1, (scramble bs (scrNextByte s).2).2)

/-- SCR.RESET (R410). -/
def execScrReset (s : State) : Result :=
  .next ((s.setDiagScr s.cfg.seed).respond 0 [] .cont 0)

/-- SCR.NEXT (R411). -/
def execScrNext (s : State) : Result :=
  .next ((s.setDiagScr (scrNextByte s.diagScr).2).respond 0 [] .cont
    ((scrNextByte s.diagScr).1.setWidth 32))

/-- The scrambler state SCR.PROCESS starts from: `SEED` when `rst = 1` (R412). -/
def scrProcessFrom (rst : Bool) (s : State) : ScrState := if rst then s.cfg.seed else s.diagScr

/-- SCR.PROCESS (R412): `c = min(n, m)` bytes are processed and consumed. -/
def execScrProcess (rst : Bool) (s : State) : Result :=
  let c := min s.n s.m
  let r := scramble (s.inTake c) (scrProcessFrom rst s)
  .next ((s.setDiagScr r.2).respond c r.1 .cont (r.2.setWidth 32))

end Sys2Proof.Machine
end

