-- ==== Sys2Proof/Machine/Frame.lean ====
section
/-! DEFINITION. packet_frame_formatter (43_frame_format.md): building, realigning and parsing a frame, and the
two diagnostic commands. -/

namespace Sys2Proof.Machine

/-- The region before scrambling, `R` bytes: type, group_id, slot_id, FEC payload, big-endian CRC (R552, R560). -/
def frameRegion (type gid sid : Byte) (payload : List Byte) : List Byte :=
  [type, gid, sid] ++ fecEnc payload ++ be32 (crc32 payload)

/-- `frame_build(type, gid, sid, payload) -> (frame, s_end)` (R560). -/
def frameBuild (cfg : Config) (type gid sid : Byte) (payload : List Byte) : List Byte × ScrState :=
  let r := scramble (frameRegion type gid sid payload) cfg.seed
  (cfg.preamble ++ be32 cfg.sync ++ r.1 ++ zeros cfg.padLen, r.2)

/-- `realign(buf, o, s)` (R565): the bytes from bit position `8*o + s` on, a trailing partial byte dropped. -/
def realign (buf : List Byte) (o s : Nat) : List Byte :=
  if s = 0 then buf.drop o
  else if buf.length ≤ o + 1 then []
  else List.zipWith (fun (x y : Byte) => x <<< s ||| y >>> (8 - s)) (buf.drop o) (buf.drop (o + 1))

/-- The record `frame_parse` returns (R566). -/
structure Parsed where
  /-- The type byte, whatever its value (R567). -/
  type : Byte
  /-- group_id. -/
  gid : Byte
  /-- slot_id. -/
  sid : Byte
  /-- The FEC-decoded payload, `L` bytes. -/
  payload : List Byte
  /-- The recomputed CRC equals the received one. -/
  crcOk : Bool
  /-- The scrambler state at the region's end. -/
  sEnd : ScrState
deriving DecidableEq, Repr

/-- The record of a descrambled region `reg` of `R` bytes (R566). -/
def parseRegion (cfg : Config) (reg : List Byte) (sEnd : ScrState) : Parsed :=
  let payload := fecDec ((reg.drop 3).take (2 * cfg.L))
  { type := reg.getD 0 0
    gid := reg.getD 1 0
    sid := reg.getD 2 0
    payload := payload
    crcOk := crc32 payload == fromBe32 ((reg.drop (3 + 2 * cfg.L)).take 4)
    sEnd := sEnd }

/-- `frame_parse(buf, o, s)` (R566); `none` is SHORT. No other check is made (R567). -/
def frameParse (cfg : Config) (buf : List Byte) (o s : Nat) : Option Parsed :=
  let a := realign buf o s
  if a.length < 4 + cfg.R then none
  else
    let r := scramble ((a.drop 4).take cfg.R) cfg.seed
    some (parseRegion cfg r.1 r.2)

/-- FRAME.BUILD (R570). -/
def execFrameBuild (type gid sid : BitVec 8) (s : State) : Result :=
  if s.n < s.cfg.L ∨ s.m < s.cfg.F then .next s.answerNotPerformed
  else
    let f := frameBuild s.cfg type gid sid (s.inTake s.cfg.L)
    .next ((s.setDiagScr f.2).respond s.cfg.L f.1 .cont 0)

/-- FRAME.PARSE (R571). -/
def execFrameParse (sh : BitVec 3) (o : BitVec 16) (s : State) : Result :=
  if s.m < s.cfg.L then .next s.answerNotPerformed
  else
    match frameParse s.cfg s.inSlice o.toNat sh.toNat with
    | none => .next (s.respond s.n [] .cont shortResult)
    | some p =>
      .next ((s.setDiagScr p.sEnd).respond s.n p.payload .cont
        (parseResult p.type p.gid p.sid p.crcOk))

end Sys2Proof.Machine
end

