-- ==== Sys2Proof/Machine/Sync.lean ====
section
/-! DEFINITION. soft_sync_search_and_frame_align (44_sync_search.md): the search and its diagnostic command. -/

namespace Sys2Proof.Machine

/-- The 40 bits of the five bytes from byte `o` on, the first as most significant. -/
def fiveBytes (buf : List Byte) (o : Nat) : BitVec 40 :=
  (buf.getD o 0).setWidth 40 <<< 32 ||| (buf.getD (o + 1) 0).setWidth 40 <<< 24 |||
    (buf.getD (o + 2) 0).setWidth 40 <<< 16 ||| (buf.getD (o + 3) 0).setWidth 40 <<< 8 |||
    (buf.getD (o + 4) 0).setWidth 40

/-- `window32(buf, b)` (R601): the 32 bits from bit position `b`, the first as most significant. They start
`b mod 8` bits into byte `b div 8`. -/
def window32 (buf : List Byte) (b : Nat) : Word :=
  (fiveBytes buf (b / 8)).extractLsb' (8 - b % 8) 32

/-- Position `b` qualifies: the window's Hamming distance to `SYNC` is at most `T` (R602). -/
def syncHit (cfg : Config) (buf : List Byte) (b : Nat) : Bool :=
  decide (popcount (window32 buf b ^^^ cfg.sync) ≤ cfg.T)

/-- The bit positions searched, `0 .. 8*len(buf) - 32`, none when `len(buf) < 4` (R602). -/
def syncPositions (buf : List Byte) : List Nat :=
  if buf.length < 4 then [] else List.range (8 * buf.length - 31)

/-- `sync_search(buf)` (R602): the byte offset and bit shift of the first qualifying position. -/
def syncSearch (cfg : Config) (buf : List Byte) : Option (Nat × Nat) :=
  match (syncPositions buf).find? (syncHit cfg buf) with
  | some b => some (b / 8, b % 8)
  | none => none

/-- SYNC.SEARCH (R610). A slice of `2^28` bytes or more is refused (60_exceptions.md R905). -/
def execSyncSearch (s : State) : Result :=
  if 2 ^ 28 ≤ s.n then .refused .sliceTooLong
  else
    match syncSearch s.cfg s.inSlice with
    | none => .next (s.respond s.n [] .cont 0)
    | some p => .next (s.respond s.n [] .cont (foundResult p.1 p.2))

end Sys2Proof.Machine
end

