-- ==== Sys2Proof/Machine/Decoder.lean ====
section
/-! DEFINITION. codec_decoder_fsm (47_decoder_fsm.md): the decoder unit's feed step rule by rule, its status
map, and its three commands. -/

namespace Sys2Proof.Machine

/-- No group is current: `DEC_CUR_GROUP_VALID <- 0; DEC_CUR_GROUP <- 0` (R812, R813, R820). -/
def decNoGroup (d : DecUnit) : DecUnit := { d with curGroupValid := false, curGroup := 0 }

/-- An accepted TRAINING frame (R811). -/
def decTrainingFrame (d : DecUnit) : DecUnit × List Byte :=
  ({ d with cntTraining := d.cntTraining + 1 }, [])

/-- An accepted START frame (R813): RECEIVING, no current group, the buffer cleared without a flush. -/
def decStartFrame (cfg : Config) (d : DecUnit) : DecUnit × List Byte :=
  (groupClear cfg (decNoGroup { d with cntStart := d.cntStart + 1, state := .receiving }), [])

/-- An accepted END frame (R812): the current group is flushed, then FINISHED. -/
def decEndFrame (cfg : Config) (d : DecUnit) : DecUnit × List Byte :=
  let f := groupFlush cfg { d with cntEnd := d.cntEnd + 1 }
  (decNoGroup { f.1 with state := .finished }, f.2)

/-- A DATA or PARITY frame changes the group: none is current, or its group_id differs (R814). -/
def decChangesGroup (d : DecUnit) (gid : Byte) : Bool := !d.curGroupValid || d.curGroup != gid

/-- The group change of R814: flush the previous group, adopt the new id. -/
def decAdopt (cfg : Config) (gid : Byte) (d : DecUnit) : DecUnit × List Byte :=
  if decChangesGroup d gid = true then
    let f := groupFlush cfg d
    ({ f.1 with curGroup := gid, curGroupValid := true }, f.2)
  else (d, [])

/-- The group change and the store of R814, after the frame is counted. -/
def decFile (cfg : Config) (p : Parsed) (d : DecUnit) : DecUnit × List Byte :=
  let a := decAdopt cfg p.gid d
  (groupStore cfg p.sid p.payload a.1, a.2)

/-- An accepted DATA frame: counted and filed in RECEIVING (R814), ignored otherwise (R815). -/
def decDataFrame (cfg : Config) (p : Parsed) (d : DecUnit) : DecUnit × List Byte :=
  if d.state = .receiving then decFile cfg p { d with cntData := d.cntData + 1 } else (d, [])

/-- An accepted PARITY frame: counted and filed in RECEIVING (R814), ignored otherwise (R815). -/
def decParityFrame (cfg : Config) (p : Parsed) (d : DecUnit) : DecUnit × List Byte :=
  if d.state = .receiving then decFile cfg p { d with cntParity := d.cntParity + 1 } else (d, [])

/-- The dispatch of an accepted frame on its type (R809, R811 to R815). -/
def decDispatch (cfg : Config) (p : Parsed) (d : DecUnit) : DecUnit × List Byte :=
  match FrameType.ofCode p.type with
  | some .training => decTrainingFrame d
  | some .start => decStartFrame cfg d
  | some .endFrame => decEndFrame cfg d
  | some .data => decDataFrame cfg p d
  | some .parity => decParityFrame cfg p d
  | none => (d, [])

/-- The first `k` bytes of the receive window are discarded. -/
def decDiscard (k : Nat) (d : DecUnit) : DecUnit := { d with rx := d.rx.drop k }

/-- A frame parsed at byte `o` (R807): rejected by its CRC (R808), or accepted and dispatched (R809). -/
def decParsed (cfg : Config) (o : Nat) (p : Parsed) (d : DecUnit) : DecUnit × List Byte :=
  let d1 := { d with scr := p.sEnd }
  if p.crcOk = true then decDispatch cfg p (decDiscard (o + 4 + cfg.R) d1)
  else (decDiscard (o + 1) { d1 with cntCrcFail := d1.cntCrcFail + 1 }, [])

/-- One frame attempt (R803): no sync (R804), short (R805), or parsed. -/
def decAttempt (cfg : Config) (d : DecUnit) : DecUnit × List Byte :=
  match syncSearch cfg d.rx with
  | none => (decDiscard (d.rx.length - 4) d, [])
  | some pos =>
    match frameParse cfg d.rx pos.1 pos.2 with
    | none => (decDiscard pos.1 d, [])
    | some p => decParsed cfg pos.1 p d

/-- `k`, the input bytes the window accepts (R801). -/
def decTaken (cfg : Config) (d : DecUnit) (inp : List Byte) : Nat :=
  min inp.length (cfg.rxcap - d.rx.length)

/-- The window after acceptance (R801). -/
def decAccept (cfg : Config) (d : DecUnit) (inp : List Byte) : DecUnit :=
  { d with rx := d.rx ++ inp.take (decTaken cfg d inp) }

/-- The decoder's feed step on the input `inp` with capacity `m` (R821), checks in the order of R906. -/
def decFeed (cfg : Config) (d : DecUnit) (inp : List Byte) (m : Nat) : DecUnit × Response :=
  if d.state = .finished then (d, ⟨inp.length, [], .done, 0⟩)
  else if m < cfg.decMaxOut then
    (decAccept cfg d inp, ⟨decTaken cfg d inp, [], .cont, 0⟩)
  else
    let a := decAttempt cfg (decAccept cfg d inp)
    (a.1, ⟨decTaken cfg d inp, a.2, .cont, 0⟩)

/-- The decoder unit's reset state (R820, 10_state.md R160). -/
def decResetUnit (cfg : Config) : DecUnit :=
  { state := .training, curGroupValid := false, curGroup := 0,
    slot := List.replicate (cfg.G + 1) (zeros cfg.L), present := List.replicate (cfg.G + 1) false,
    rx := [], scr := cfg.seed, cntTraining := 0, cntStart := 0, cntData := 0, cntParity := 0,
    cntEnd := 0, cntRecovered := 0, cntCrcFail := 0 }

/-- The status register map of DEC.STAT, zero-extended (10_state.md R151). -/
def decStatus (d : DecUnit) (idx : BitVec 8) : Option Word :=
  if idx = 0 then some (d.state.code.setWidth 32)
  else if idx = 1 then
    some ((BitVec.ofBool d.curGroupValid).setWidth 32 <<< 8 ||| d.curGroup.setWidth 32)
  else if idx = 2 then some (presentWord d.present)
  else if idx = 3 then some (BitVec.ofNat 32 d.rx.length)
  else if idx = 5 then some (d.scr.setWidth 32)
  else if idx = 8 then some d.cntTraining
  else if idx = 9 then some d.cntStart
  else if idx = 10 then some d.cntData
  else if idx = 11 then some d.cntParity
  else if idx = 12 then some d.cntEnd
  else if idx = 13 then some d.cntRecovered
  else if idx = 14 then some d.cntCrcFail
  else none

/-- DEC.RESET (R820). -/
def execDecReset (s : State) : Result :=
  .next (s.commitDec (decResetUnit s.cfg, ⟨0, [], .cont, 0⟩))

/-- DEC.FEED (R821). -/
def execDecFeed (s : State) : Result :=
  .next (s.commitDec (decFeed s.cfg s.dec s.inSlice s.m))

/-- DEC.STAT (R830). -/
def execDecStat (idx : BitVec 8) (s : State) : Result :=
  .next (s.answerStatus (decStatus s.dec idx))

end Sys2Proof.Machine
end

