-- ==== Sys2Proof/Machine/Encoder.lean ====
section
/-! DEFINITION. codec_encoder_fsm (46_encoder_fsm.md): the encoder unit's state entries, its feed step rule by
rule, its status map, and its three commands. -/

namespace Sys2Proof.Machine

/-- A state entry's first two writes: the state, and `ENC_PHASE_CNT <- 0` (R701). -/
def encArrive (S : EncState) (e : EncUnit) : EncUnit := { e with state := S, phaseCnt := 0 }

/-- `enc_enter(FINISHED)` (R701). -/
def encEnterFinished (e : EncUnit) : EncUnit := encArrive .finished e

/-- `enc_enter(END)`: skipped when `N_END = 0` (R701). -/
def encEnterEnd (cfg : Config) (e : EncUnit) : EncUnit :=
  if cfg.nEnd = 0 then encEnterFinished (encArrive .endPhase e) else encArrive .endPhase e

/-- `enc_enter(DATA)`: group_id 1, a fresh parity accumulator, an empty group and stage (R701). -/
def encEnterData (cfg : Config) (e : EncUnit) : EncUnit :=
  { encArrive .data e with groupId := 1, parityAcc := zeros cfg.L, slotCnt := 0, stageCnt := 0 }

/-- `enc_enter(START)`: skipped when `N_START = 0` (R701). -/
def encEnterStart (cfg : Config) (e : EncUnit) : EncUnit :=
  if cfg.nStart = 0 then encEnterData cfg (encArrive .start e) else encArrive .start e

/-- `enc_enter(TRAINING)`: skipped when `N_TRAIN = 0` (R701). -/
def encEnterTraining (cfg : Config) (e : EncUnit) : EncUnit :=
  if cfg.nTrain = 0 then encEnterStart cfg (encArrive .training e) else encArrive .training e

/-- `enc_enter(S)` (R701). -/
def encEnter (cfg : Config) (S : EncState) (e : EncUnit) : EncUnit :=
  match S with
  | .training => encEnterTraining cfg e
  | .start => encEnterStart cfg e
  | .data => encEnterData cfg e
  | .endPhase => encEnterEnd cfg e
  | .finished => encEnterFinished e

/-- The counter of a frame's type `<- itself + 1` (mod 2^32) (R117, R703). -/
def encCount (type : FrameType) (e : EncUnit) : EncUnit :=
  match type with
  | .training => { e with cntTraining := e.cntTraining + 1 }
  | .start => { e with cntStart := e.cntStart + 1 }
  | .data => { e with cntData := e.cntData + 1 }
  | .parity => { e with cntParity := e.cntParity + 1 }
  | .endFrame => { e with cntEnd := e.cntEnd + 1 }

/-- `enc_emit(type, gid, sid, payload) -> frame` (R703): builds one frame and accounts for it. -/
def encEmit (cfg : Config) (type : FrameType) (gid sid : Byte) (payload : List Byte) (e : EncUnit) :
    EncUnit × List Byte :=
  let f := frameBuild cfg type.code gid sid payload
  (encCount type { e with scr := f.2 }, f.1)

/-- `next_gid(g)` (R704): 255 wraps to 1. -/
def nextGid (g : Byte) : Byte := if g = 255 then 1 else g + 1

/-- One step of a repeat phase of `N` frames (R702, R708): consumes nothing. -/
def encRepeat (cfg : Config) (type : FrameType) (N : Nat) (after : EncState) (e : EncUnit) :
    EncUnit × Response :=
  let f := encEmit cfg type 0 0 (zeros cfg.L) e
  let e1 := { f.1 with phaseCnt := f.1.phaseCnt + 1 }
  (if e1.phaseCnt.toNat = N then encEnter cfg after e1 else e1, ⟨0, f.2, .cont, 0⟩)

/-- `k`, the input bytes one DATA step moves into the stage (R711). -/
def encTaken (cfg : Config) (e : EncUnit) (inp : List Byte) : Nat :=
  min (cfg.L - e.stageCnt) inp.length

/-- The stage after `k` input bytes moved into it (R711). -/
def encStage (cfg : Config) (e : EncUnit) (inp : List Byte) : EncUnit :=
  let k := encTaken cfg e inp
  { e with
    stage := e.stage.take e.stageCnt ++ inp.take k ++ e.stage.drop (e.stageCnt + k)
    stageCnt := e.stageCnt + k }

/-- The PARITY frame of the current group, slot_id `G` (R652, R712, R714). -/
def encEmitParity (cfg : Config) (e : EncUnit) : EncUnit × List Byte :=
  encEmit cfg .parity e.groupId (BitVec.ofNat 8 cfg.G) e.parityAcc e

/-- A sentinel chunk (R712): the group's PARITY frame if it holds data, then `enc_enter(END)`. -/
def encSentinel (cfg : Config) (e : EncUnit) (k : Nat) : EncUnit × Response :=
  let f := if 0 < e.slotCnt.toNat then encEmitParity cfg e else (e, [])
  (encEnter cfg .endPhase { f.1 with stageCnt := 0 }, ⟨k, f.2, .cont, 0⟩)

/-- A full group (R714): its PARITY frame, the next group_id, and the chunk stays staged. -/
def encFullGroup (cfg : Config) (e : EncUnit) (k : Nat) : EncUnit × Response :=
  let f := encEmitParity cfg e
  ({ f.1 with groupId := nextGid f.1.groupId, parityAcc := zeros cfg.L, slotCnt := 0 },
    ⟨k, f.2, .cont, 0⟩)

/-- An ordinary chunk `ch` (R713): a DATA frame, and the chunk enters the parity. -/
def encOrdinary (cfg : Config) (e : EncUnit) (ch : List Byte) (k : Nat) : EncUnit × Response :=
  let e1 := { e with parityAcc := xorBytes e.parityAcc ch }
  let f := encEmit cfg .data e1.groupId e1.slotCnt ch e1
  ({ f.1 with slotCnt := f.1.slotCnt + 1, stageCnt := 0 }, ⟨k, f.2, .cont, 0⟩)

/-- A full stage is processed by exactly one of R712, R714 and R713, tested in that order (R711). -/
def encChunk (cfg : Config) (e : EncUnit) (k : Nat) : EncUnit × Response :=
  let ch := e.stage.take cfg.L
  if ch = cfg.eos then encSentinel cfg e k
  else if e.slotCnt.toNat = cfg.G then encFullGroup cfg e k
  else encOrdinary cfg e ch k

/-- One DATA step (R711): stage the input, and process the chunk when the stage is full. -/
def encDataStep (cfg : Config) (e : EncUnit) (inp : List Byte) : EncUnit × Response :=
  let k := encTaken cfg e inp
  let e1 := encStage cfg e inp
  if e1.stageCnt < cfg.L then (e1, ⟨k, [], .cont, 0⟩) else encChunk cfg e1 k

/-- The encoder's feed step on the input `inp` with capacity `m` (R721), checks in the order of R906. -/
def encFeed (cfg : Config) (e : EncUnit) (inp : List Byte) (m : Nat) : EncUnit × Response :=
  if e.state = .finished then (e, ⟨inp.length, [], .done, 0⟩)
  else if m < cfg.F then (e, ⟨0, [], .cont, 0⟩)
  else
    match e.state with
    | .training => encRepeat cfg .training cfg.nTrain .start e
    | .start => encRepeat cfg .start cfg.nStart .data e
    | .data => encDataStep cfg e inp
    | .endPhase => encRepeat cfg .endFrame cfg.nEnd .finished e
    | .finished => (e, ⟨inp.length, [], .done, 0⟩)

/-- The encoder unit's reset state (R720, 10_state.md R160, 70_reset_and_hazards.md R951). -/
def encResetUnit (cfg : Config) : EncUnit :=
  encEnter cfg .training
    { state := .training, phaseCnt := 0, groupId := 0, slotCnt := 0, parityAcc := zeros cfg.L,
      stage := zeros cfg.L, stageCnt := 0, scr := cfg.seed,
      cntTraining := 0, cntStart := 0, cntData := 0, cntParity := 0, cntEnd := 0 }

/-- The status register map of ENC.STAT, zero-extended (10_state.md R150). -/
def encStatus (e : EncUnit) (idx : BitVec 8) : Option Word :=
  if idx = 0 then some (e.state.code.setWidth 32)
  else if idx = 1 then some e.phaseCnt
  else if idx = 2 then some (e.groupId.setWidth 32)
  else if idx = 3 then some (e.slotCnt.setWidth 32)
  else if idx = 4 then some (BitVec.ofNat 32 e.stageCnt)
  else if idx = 5 then some (e.scr.setWidth 32)
  else if idx = 8 then some e.cntTraining
  else if idx = 9 then some e.cntStart
  else if idx = 10 then some e.cntData
  else if idx = 11 then some e.cntParity
  else if idx = 12 then some e.cntEnd
  else none

/-- ENC.RESET (R720). -/
def execEncReset (s : State) : Result :=
  .next (s.commitEnc (encResetUnit s.cfg, ⟨0, [], .cont, 0⟩))

/-- ENC.FEED (R721). -/
def execEncFeed (s : State) : Result :=
  .next (s.commitEnc (encFeed s.cfg s.enc s.inSlice s.m))

/-- ENC.STAT (R730). -/
def execEncStat (idx : BitVec 8) (s : State) : Result :=
  .next (s.answerStatus (encStatus s.enc idx))

end Sys2Proof.Machine
end

