-- ==== Sys2Proof/Machine/Dispatch.lean ====
section
/-! DEFINITION. One arm per command, each a direct call of its meaning. -/

namespace Sys2Proof.Machine

def exec (i : Instr) (s : State) : Host.Outcome State Fault Refusal :=
  match i with
  | .nop => Sys2Proof.Machine.execNop s
  | .scrReset => Sys2Proof.Machine.execScrReset s
  | .scrNext => Sys2Proof.Machine.execScrNext s
  | .scrProcess rst => Sys2Proof.Machine.execScrProcess rst s
  | .hamEnc nib => Sys2Proof.Machine.execHamEnc nib s
  | .hamDec cw => Sys2Proof.Machine.execHamDec cw s
  | .crc32 => Sys2Proof.Machine.execCrc32 s
  | .frameBuild type gid sid => Sys2Proof.Machine.execFrameBuild type gid sid s
  | .frameParse sh o => Sys2Proof.Machine.execFrameParse sh o s
  | .syncSearch => Sys2Proof.Machine.execSyncSearch s
  | .encReset => Sys2Proof.Machine.execEncReset s
  | .encFeed => Sys2Proof.Machine.execEncFeed s
  | .encStat idx => Sys2Proof.Machine.execEncStat idx s
  | .decReset => Sys2Proof.Machine.execDecReset s
  | .decFeed => Sys2Proof.Machine.execDecFeed s
  | .decStat idx => Sys2Proof.Machine.execDecStat idx s

end Sys2Proof.Machine
end

