-- ==== Sys2Proof/WellFormed.lean ====
section
/-! DEFINITION. The checks the spec states: a configuration that defines a block (00_scope.md R11), a command
that rule R311 does not make illegal, and a command word whose reserved bits are zero (30_encoding.md R303).
The operand ranges of R302 are the types of `Instr`'s fields. A command that fails `Instr.legal` still has a
meaning (it answers ILLEGAL), and so has a word that fails `reservedClear` (its reserved bits are ignored). -/

namespace Sys2Proof

/-- The constraints of R11 on a configuration, and D46's on `MAX_SLICE`. -/
def Config.valid (c : Config) : Bool :=
  decide (1 ≤ c.L) &&
  decide (1 ≤ c.G) && decide (c.G ≤ 255) &&
  decide (c.T ≤ 32) &&
  decide (c.seed ≠ 0) &&
  decide (c.P + 4 + c.R ≤ c.F) &&
  decide (4 + c.R + 1 ≤ c.rxcap) &&
  decide (c.eos.length = c.L) &&
  decide (c.maxSlice < 2 ^ 28)

/-- The status indices ENC.STAT lists (10_state.md R150). -/
def encStatListed (idx : BitVec 8) : Bool :=
  decide (idx.toNat ≤ 5) || (decide (8 ≤ idx.toNat) && decide (idx.toNat ≤ 12))

/-- The status indices DEC.STAT lists (10_state.md R151). -/
def decStatListed (idx : BitVec 8) : Bool :=
  decide (idx.toNat ≤ 3) || decide (idx.toNat = 5) ||
    (decide (8 ≤ idx.toNat) && decide (idx.toNat ≤ 14))

/-- A command that R311 does not make illegal: a status command names a listed index. -/
def Instr.legal : Instr → Bool
  | .nop => true
  | .scrReset => true
  | .scrNext => true
  | .scrProcess _ => true
  | .hamEnc _ => true
  | .hamDec _ => true
  | .crc32 => true
  | .frameBuild _ _ _ => true
  | .frameParse _ _ => true
  | .syncSearch => true
  | .encReset => true
  | .encFeed => true
  | .encStat idx => encStatListed idx
  | .decReset => true
  | .decFeed => true
  | .decStat idx => decStatListed idx

/-- The bits of the command word that belong to a command's opcode and operands (R301, R302); every other bit
of the word is reserved (R303). -/
def Instr.usedBits : Instr → Word
  | .nop => 0x000000FF
  | .scrReset => 0x000000FF
  | .scrNext => 0x000000FF
  | .scrProcess _ => 0x000001FF
  | .hamEnc _ => 0x00000FFF
  | .hamDec _ => 0x00007FFF
  | .crc32 => 0x000000FF
  | .frameBuild _ _ _ => 0xFFFFFFFF
  | .frameParse _ _ => 0xFFFF07FF
  | .syncSearch => 0x000000FF
  | .encReset => 0x000000FF
  | .encFeed => 0x000000FF
  | .encStat _ => 0x0000FFFF
  | .decReset => 0x000000FF
  | .decFeed => 0x000000FF
  | .decStat _ => 0x0000FFFF

/-- The word `w` writes the reserved bits of command `i` as zero, as software should (R303). -/
def reservedClear (i : Instr) (w : Word) : Bool := decide (w &&& ~~~ i.usedBits = 0)

end Sys2Proof
end

