-- ==== Sys2Proof/Decode.lean ====
section
/-! DEFINITION. The decoder of command words (30_encoding.md R301 to R304, R311), total on every word, and the
encoder after it (R301, R302, R313). The command word is one 32-bit value: no byte order enters (log entry 11). -/

namespace Sys2Proof

/-- Why a word is no command. -/
inductive DecodeReject where
  /-- `OP` is not in the table of R304 (R311). -/
  | undefinedOpcode (op : BitVec 8)
deriving DecidableEq, Repr

/-- `OP`, bits 7:0 (R301). -/
def fieldOp (w : Word) : BitVec 8 := w.extractLsb' 0 8

/-- `A8`, bits 15:8 (R301). -/
def fieldA8 (w : Word) : BitVec 8 := w.extractLsb' 8 8

/-- `B2`, bits 23:16 (R301). -/
def fieldB2 (w : Word) : BitVec 8 := w.extractLsb' 16 8

/-- `B3`, bits 31:24 (R301). -/
def fieldB3 (w : Word) : BitVec 8 := w.extractLsb' 24 8

/-- `A16`, bits 31:16, the concatenation `B3:B2` (R301). -/
def fieldA16 (w : Word) : BitVec 16 := w.extractLsb' 16 16

/-- The command a word stands for: the row is selected by `OP` alone (R304), the operands are the fields of
R302, and every other bit is ignored (R303). -/
def decode (w : Word) : Except DecodeReject Instr :=
  let op := fieldOp w
  if op = 0x00 then .ok .nop
  else if op = 0x01 then .ok .scrReset
  else if op = 0x02 then .ok .scrNext
  else if op = 0x03 then .ok (.scrProcess ((fieldA8 w).getLsbD 0))
  else if op = 0x04 then .ok (.hamEnc ((fieldA8 w).extractLsb' 0 4))
  else if op = 0x05 then .ok (.hamDec ((fieldA8 w).extractLsb' 0 7))
  else if op = 0x06 then .ok .crc32
  else if op = 0x07 then .ok (.frameBuild (fieldA8 w) (fieldB2 w) (fieldB3 w))
  else if op = 0x08 then .ok (.frameParse ((fieldA8 w).extractLsb' 0 3) (fieldA16 w))
  else if op = 0x09 then .ok .syncSearch
  else if op = 0x10 then .ok .encReset
  else if op = 0x11 then .ok .encFeed
  else if op = 0x12 then .ok (.encStat (fieldA8 w))
  else if op = 0x20 then .ok .decReset
  else if op = 0x21 then .ok .decFeed
  else if op = 0x22 then .ok (.decStat (fieldA8 w))
  else .error (.undefinedOpcode op)

/-- The instruction the decoder reads from a table word: bit 0 is bit 0 of the command word, and bits at and
above `nbits` are zero. -/
def decodeTableWord (nbits w : Nat) : Option Instr :=
  match decode (BitVec.ofNat 32 (w % 2 ^ nbits)) with
  | .ok i => some i
  | .error _ => none

/-- The word `OP | A8 << 8 | B2 << 16 | B3 << 24` (R301, R313). -/
def packWord (op a8 b2 b3 : BitVec 8) : Word :=
  op.setWidth 32 ||| a8.setWidth 32 <<< 8 ||| b2.setWidth 32 <<< 16 ||| b3.setWidth 32 <<< 24

/-- The word `OP | A8 << 8 | A16 << 16` (R301). -/
def packWord16 (op a8 : BitVec 8) (a16 : BitVec 16) : Word :=
  op.setWidth 32 ||| a8.setWidth 32 <<< 8 ||| a16.setWidth 32 <<< 16

/-- The command word of a command, operands placed by R302, reserved bits zero (R303). -/
def encode : Instr → Word
  | .nop => packWord 0x00 0 0 0
  | .scrReset => packWord 0x01 0 0 0
  | .scrNext => packWord 0x02 0 0 0
  | .scrProcess rst => packWord 0x03 ((BitVec.ofBool rst).setWidth 8) 0 0
  | .hamEnc nib => packWord 0x04 (nib.setWidth 8) 0 0
  | .hamDec cw => packWord 0x05 (cw.setWidth 8) 0 0
  | .crc32 => packWord 0x06 0 0 0
  | .frameBuild type gid sid => packWord 0x07 type gid sid
  | .frameParse s o => packWord16 0x08 (s.setWidth 8) o
  | .syncSearch => packWord 0x09 0 0 0
  | .encReset => packWord 0x10 0 0 0
  | .encFeed => packWord 0x11 0 0 0
  | .encStat idx => packWord 0x12 idx 0 0
  | .decReset => packWord 0x20 0 0 0
  | .decFeed => packWord 0x21 0 0 0
  | .decStat idx => packWord 0x22 idx 0 0

end Sys2Proof
end

