-- ==== Sys2Proof/Machine/Port.lean ====
section
/-! DEFINITION. The transaction interface: power-on reset of the whole block, and what the step does with the
next event the host presents, up to the command it runs (log entries 2 to 8, 22). -/

namespace Sys2Proof.Machine

/-- Power-on reset at a configuration: every register takes its reset value and the encoder performs
`enc_enter(TRAINING)` (70_reset_and_hazards.md R950, R951; 10_state.md R160). What the host presents next is
the host's, and stays. -/
def powerOn (cfg : Config) (pending : List HostEvent) : State :=
  { cfg := cfg, enc := encResetUnit cfg, dec := decResetUnit cfg, diagScr := cfg.seed,
    inSlice := [], cap := 0, pending := pending, response := none }

/-- The state in which a command is executed: its `IN` and `CAP` are on the interface (R300). -/
def State.present (s : State) (c : Command) (rest : List HostEvent) : State :=
  { s with inSlice := c.inSlice, cap := c.cap, pending := rest }

/-- What the next event comes to. -/
inductive Fetched where
  /-- The step ends in this state without a command of the table being run. -/
  | ended (s : State)
  /-- This command runs in this state. -/
  | run (i : Instr) (s : State)
  /-- The event breaks the host's contract, and the model refuses it. -/
  | refuse (r : Refusal)
deriving DecidableEq, Repr

/-- The host's contract on a decoded command (20_memory.md R207, 60_exceptions.md R905, 93 H1 and H3). -/
def contractBreach (cfg : Config) (c : Command) (i : Instr) : Option Refusal :=
  match unitOf i with
  | some u =>
    if c.busy.contains u then some .unitBusy
    else if cfg.maxSlice < c.inSlice.length then some .sliceTooLong
    else none
  | none => if cfg.maxSlice < c.inSlice.length then some .sliceTooLong else none

/-- The next command, decoded: an undefined opcode is checked first and answers ILLEGAL (R311, R906); then the
host's contract. -/
def issue (s : State) (c : Command) (rest : List HostEvent) : Fetched :=
  match decode c.word with
  | .error _ => .ended (s.present c rest).answerIllegal
  | .ok i =>
    match contractBreach s.cfg c i with
    | some r => .refuse r
    | none => .run i (s.present c rest)

/-- The next event. A configuration that breaks R11 defines no block (R9); with nothing presented the state is
held (R924). -/
def fetch (s : State) : Fetched :=
  if s.cfg.valid = true then
    match s.pending with
    | [] => .ended s
    | .powerOnReset :: rest => .ended (powerOn s.cfg rest)
    | .command c :: rest => issue s c rest
  else .refuse .badConfiguration

/-- A table word as the next command, ahead of everything else pending, with the `IN` and `CAP` that stand on
the interface and no unit busy (log entry 2). -/
def presentWordNext (s : State) (nbits w : Nat) : State :=
  { s with
    pending :=
      .command ⟨BitVec.ofNat 32 (w % 2 ^ nbits), s.inSlice, s.cap, []⟩ :: s.pending }

end Sys2Proof.Machine
end

