-- ==== Sys2Proof/Machine/Step.lean ====
section
/-! DEFINITION. One step: the next event the host presents, and the command it runs (20_memory.md R207, R210). -/

namespace Sys2Proof.Machine

/-- One step of the block. -/
def step (s : State) : Host.Outcome State Fault Refusal :=
  match fetch s with
  | .ended t => .next t
  | .refuse r => .refused r
  | .run i t => exec i t

/-- `s` with a table word presented as its next command, so that the very next step runs it. -/
def State.withFetchWord (s : State) (nbits w : Nat) : State := presentWordNext s nbits w

end Sys2Proof.Machine
end

