-- ==== Sys2Proof/Safety.lean ====
section
/-! DEFINITION. What counts as a sound state and a sound answer of the block, and the words the statements use:
the invariant of the three units, the bounds on a response, the order of the states, the host's contract. -/

namespace Sys2Proof.Machine

/-- What the rules say of the encoder unit between two commands. -/
structure EncInv (cfg : Config) (e : EncUnit) : Prop where
  /-- `ENC_PARITY_ACC` has `L` bytes (10_state.md R114). -/
  parity_len : e.parityAcc.length = cfg.L
  /-- `ENC_STAGE` has `L` bytes (R115). -/
  stage_len : e.stage.length = cfg.L
  /-- `ENC_STAGE_CNT` is 0..L (R115). -/
  stageCnt_le : e.stageCnt ≤ cfg.L
  /-- `ENC_SLOT_CNT` is 0..G (R113). -/
  slotCnt_le : e.slotCnt.toNat ≤ cfg.G
  /-- The scrambler state is in 1..127 (40_scrambler.md R400). -/
  scr_ne : e.scr ≠ 0
  /-- From DATA on, the group_id is 1..255 (46_encoder_fsm.md R704). -/
  groupId_ne : e.state ≠ .training → e.state ≠ .start → e.groupId ≠ 0
  /-- `ENC_PHASE_CNT` is zero in DATA and FINISHED (R111). -/
  phase_zero : e.state = .data ∨ e.state = .finished → e.phaseCnt = 0
  /-- A repeat phase is left when its count is reached (R701, R708). -/
  phase_training : e.state = .training → e.phaseCnt.toNat < cfg.nTrain
  /-- The same of START. -/
  phase_start : e.state = .start → e.phaseCnt.toNat < cfg.nStart
  /-- The same of END. -/
  phase_end : e.state = .endPhase → e.phaseCnt.toNat < cfg.nEnd
  /-- A full stage waits only to become slot 0 of the next group (R115, R714). -/
  parked : e.stageCnt = cfg.L → e.state = .data ∧ e.slotCnt = 0 ∧ e.stage ≠ cfg.eos
  /-- With no DATA frame in the group the parity is `zeros(L)` (R652). -/
  fresh : e.slotCnt = 0 → e.parityAcc = zeros cfg.L

/-- What the rules say of the decoder unit between two commands. -/
structure DecInv (cfg : Config) (d : DecUnit) : Prop where
  /-- `G+1` slots (R132). -/
  slot_len : d.slot.length = cfg.G + 1
  /-- Each slot has `L` bytes (R132). -/
  slot_bytes : ∀ p ∈ d.slot, p.length = cfg.L
  /-- `G+1` presence bits (R132). -/
  present_len : d.present.length = cfg.G + 1
  /-- The window holds at most `RXCAP` bytes (R133). -/
  rx_le : d.rx.length ≤ cfg.rxcap
  /-- The scrambler state is in 1..127 (R400). -/
  scr_ne : d.scr ≠ 0
  /-- A group is current only while active (R131, 47_decoder_fsm.md R812, R814). -/
  inactive : d.state ≠ .receiving → d.curGroupValid = false
  /-- With no current group the buffer is empty and `DEC_CUR_GROUP` is 0 (R131, R812, R813). -/
  noGroup : d.curGroupValid = false →
    d.curGroup = 0 ∧ d.present = List.replicate (cfg.G + 1) false

/-- The invariant of the whole block. -/
structure BlockInv (s : State) : Prop where
  /-- The configuration meets 00_scope.md R11. -/
  cfg_valid : s.cfg.valid = true
  /-- The encoder unit. -/
  enc : EncInv s.cfg s.enc
  /-- The decoder unit. -/
  dec : DecInv s.cfg s.dec
  /-- `DIAG_SCR` is in 1..127 (R400). -/
  diagScr_ne : s.diagScr ≠ 0

/-- A response keeps the bounds of 30_encoding.md R306 for `n` input bytes and capacity `m`, and carries no output
with DONE (R307). -/
def Response.fits (r : Response) (n m : Nat) : Prop :=
  r.consumed ≤ n ∧ r.out.length ≤ m ∧ (r.sig = .done → r.out = [])

/-- The place of a state in the encoder's linear order (46_encoder_fsm.md R700). -/
def EncState.rank (S : EncState) : Nat := S.code.toNat

/-- The place of a state in the decoder's order (47_decoder_fsm.md R800). -/
def DecState.rank (S : DecState) : Nat := S.code.toNat

/-- The number of bits in which the 32 bits from bit position `b` differ from `SYNC`, the most significant bit of
`SYNC` first (44_sync_search.md R600 to R602). -/
def syncDistance (cfg : Config) (buf : List Byte) (b : Nat) : Nat :=
  (List.range 32).countP (fun i => bitAt buf (b + i) != cfg.sync.getLsbD (31 - i))

/-- What the host keeps in what it presents: no command while a unit is busy (60_exceptions.md R905, log entry 7), no
slice longer than `MAX_SLICE` (92_eei_decisions.md D46, log entry 8), in a configuration that defines a block (R9). -/
def HostAbides (s : State) : Prop :=
  s.cfg.valid = true ∧
    ∀ c, HostEvent.command c ∈ s.pending → c.busy = [] ∧ c.inSlice.length ≤ s.cfg.maxSlice

/-- The XOR of a list of `L`-byte payloads, `zeros(L)` of none (45_erasure_group.md R650, R652). -/
def xorAll (L : Nat) (ps : List (List Byte)) : List Byte := ps.foldl xorBytes (zeros L)

/-- The encoder unit after one feed step per chunk, each given one chunk and capacity `m`. -/
def encFeedChunks (cfg : Config) (m : Nat) : List (List Byte) → EncUnit → EncUnit
  | [], e => e
  | ch :: rest, e => encFeedChunks cfg m rest (encFeed cfg e ch m).1

/-- The bits of `src` stand in `buf` from bit position `p` on (20_memory.md R203). -/
def BitsAt (buf : List Byte) (p : Nat) (src : List Byte) : Prop :=
  p + 8 * src.length ≤ 8 * buf.length ∧ ∀ i, i < 8 * src.length → bitAt buf (p + i) = bitAt src i

end Sys2Proof.Machine
end

