-- ==== Sys2Proof/Certificates/Slice0/Obligations.lean ====
section
/-! DEFINITION. The statements for the provers, taken from the numbered rules of spec/. A statement that gives the
next state as a record update says with it the whole frame: every register, buffer, counter and interface field
the update does not name is unchanged. The block has no memory besides those (20_memory.md R200, R201). -/

open Sys2Proof Sys2Proof.Machine

/-! ### Decoding and the step -/

/-- Sanity: words written out from 30_encoding.md R313 and 95_test_vectors.md decode to their commands. -/
def Obligations.SpecWordsDecode : Prop :=
  decode 0x00000A04 = .ok (.hamEnc 0xA) ∧ decode 0x00010307 = .ok (.frameBuild 3 1 0) ∧
  decode 0x00080308 = .ok (.frameParse 3 8) ∧ decode 0x00000103 = .ok (.scrProcess true) ∧
  decode 0x00000A12 = .ok (.encStat 10) ∧ decode 0x00000D22 = .ok (.decStat 13) ∧
  decode 0x00000021 = .ok .decFeed ∧ decode 0x00000006 = .ok .crc32 ∧
  decode 0x0000000A = .error (.undefinedOpcode 0x0A)

/-- Every command's word decodes to the command, every operand at every value; and a word that writes no reserved
bit of the command it decodes to is that command's word (30_encoding.md R301 to R304, R313). -/
def Obligations.DecodeAndEncodeAgree : Prop :=
  (∀ i : Instr, decode (encode i) = .ok i) ∧
  ∀ (w : Word) (i : Instr), decode w = .ok i → reservedClear i w = true → encode i = w

/-- A word with other reserved bits decodes to the same command (30_encoding.md R303). -/
def Obligations.ReservedBitsAreIgnored : Prop :=
  ∀ (w w' : Word) (i : Instr), decode w = .ok i → w' &&& i.usedBits = w &&& i.usedBits →
    decode w' = .ok i

/-- A step takes the next command the host presents and runs what its word decodes to, on its `IN` and `CAP`
(30_encoding.md R300, 20_memory.md R207, R210). The form of its premises is the model's choice: the next command
stands in `pending` (log entry 2), the busy units come as a list with it (log entry 7), and a slice of exactly
`MAX_SLICE` bytes is run, as 92_eei_decisions.md D46 has it, where 93_implementation_defined.md H3 refuses it (log entry
8, unsafe at that one length). -/
def Obligations.StepRunsTheDecodedCommand : Prop :=
  ∀ (s : State) (c : Command) (rest : List HostEvent) (i : Instr),
    s.cfg.valid = true → s.pending = .command c :: rest → decode c.word = .ok i →
    (∀ u, unitOf i = some u → u ∉ c.busy) → c.inSlice.length ≤ s.cfg.maxSlice →
    step s = exec i { s with inSlice := c.inSlice, cap := c.cap, pending := rest }

/-- A word whose opcode is not in the table changes no unit and answers ILLEGAL (30_encoding.md R304, R311), and this
check comes first (60_exceptions.md R906). That it also comes before the host's contract, so that a slice beyond
`MAX_SLICE` or a list of busy units does not keep the answer back, is the model's choice, log entries 7 and 8; that the
command stands in `pending` is log entry 2. -/
def Obligations.UndefinedOpcodeAnswersIllegal : Prop :=
  ∀ (s : State) (c : Command) (rest : List HostEvent),
    s.cfg.valid = true → s.pending = .command c :: rest →
    c.word.extractLsb' 0 8 ∉ ([0x00, 0x01, 0x02, 0x03, 0x04, 0x05, 0x06, 0x07, 0x08, 0x09,
      0x10, 0x11, 0x12, 0x20, 0x21, 0x22] : List (BitVec 8)) →
    step s = .next { s with inSlice := c.inSlice, cap := c.cap, pending := rest,
                            response := some ⟨0, [], .illegal, 0⟩ }

/-- What a model must refuse: a command to a busy unit and a SYNC.SEARCH slice of `2^28` bytes or more
(60_exceptions.md R905, 20_memory.md R207), a slice beyond the host's bound (93_implementation_defined.md H3), and any
event in a configuration that defines no block (R9, R903). How the host's side is held in the state is the model's
choice, log entries 2, 7, 8 and 22. -/
def Obligations.HostContractBreachesAreRefused : Prop :=
  (∀ s : State, s.cfg.valid = false → step s = .refused .badConfiguration) ∧
  (∀ (s : State) (c : Command) (rest : List HostEvent) (i : Instr) (u : CmdUnit),
    s.cfg.valid = true → s.pending = .command c :: rest → decode c.word = .ok i →
    unitOf i = some u → u ∈ c.busy → step s = .refused .unitBusy) ∧
  (∀ (s : State) (c : Command) (rest : List HostEvent) (i : Instr),
    s.cfg.valid = true → s.pending = .command c :: rest → decode c.word = .ok i →
    (∀ u, unitOf i = some u → u ∉ c.busy) → s.cfg.maxSlice < c.inSlice.length →
    step s = .refused .sliceTooLong) ∧
  ∀ s : State, 2 ^ 28 ≤ s.inSlice.length → exec .syncSearch s = .refused .sliceTooLong

/-- The reset input sets every register to its reset value and the encoder performs `enc_enter(TRAINING)`
(70_reset_and_hazards.md R950, R951, 10_state.md R160). That it is an event of `pending` and clears the interface is
the model's choice, log entries 2 and 6. -/
def Obligations.PowerOnResetsEveryUnit : Prop :=
  ∀ (s : State) (rest : List HostEvent),
    s.cfg.valid = true → s.pending = .powerOnReset :: rest →
    ∃ e : EncUnit,
      step s = .next
        { cfg := s.cfg, enc := e,
          dec :=
            { state := .training, curGroupValid := false, curGroup := 0,
              slot := List.replicate (s.cfg.G + 1) (zeros s.cfg.L),
              present := List.replicate (s.cfg.G + 1) false, rx := [], scr := s.cfg.seed,
              cntTraining := 0, cntStart := 0, cntData := 0, cntParity := 0, cntEnd := 0,
              cntRecovered := 0, cntCrcFail := 0 },
          diagScr := s.cfg.seed, inSlice := [], cap := 0, pending := rest, response := none } ∧
      e =
        { state := if s.cfg.nTrain ≠ 0 then .training else if s.cfg.nStart ≠ 0 then .start else .data,
          phaseCnt := 0, groupId := if s.cfg.nTrain = 0 ∧ s.cfg.nStart = 0 then 1 else 0,
          slotCnt := 0, parityAcc := zeros s.cfg.L, stage := zeros s.cfg.L, stageCnt := 0,
          scr := s.cfg.seed, cntTraining := 0, cntStart := 0, cntData := 0, cntParity := 0, cntEnd := 0 }

/-! ### The whole block -/

/-- Every step keeps the invariant of the three units (10_state.md R110 to R140 and the rules each field cites). -/
def Obligations.StepKeepsTheInvariant : Prop :=
  ∀ s t : State, BlockInv s → step s = .next t → BlockInv t

/-- The invariant holds right after reset at the reference configuration. -/
def Obligations.ResetMeetsTheInvariant : Prop := BlockInv State.reset

/-- Every response keeps `CONSUMED <= n` and `len(OUT) <= m`, and DONE carries no output (30_encoding.md R306,
R307). -/
def Obligations.ResponsesKeepTheirBounds : Prop :=
  ∀ (i : Instr) (s t : State), BlockInv s → exec i s = .next t →
    ∃ r, t.response = some r ∧ r.fits s.inSlice.length s.cap

/-- A command addressed to one unit never writes another unit's registers, nor the configuration or what the host
presents (20_memory.md R211); status reads and the stateless diagnostics write none at all (R208). -/
def Obligations.CommandsStayInTheirUnit : Prop :=
  ∀ (i : Instr) (s t : State), exec i s = .next t →
    (unitOf i ≠ some .encoder → t.enc = s.enc) ∧
    (unitOf i ≠ some .decoder → t.dec = s.dec) ∧
    (unitOf i ≠ some .diagnostic → t.diagScr = s.diagScr) ∧
    ((match i with
      | .nop | .hamEnc _ | .hamDec _ | .crc32 | .syncSearch | .encStat _ | .decStat _ => True
      | _ => False) → t.enc = s.enc ∧ t.dec = s.dec ∧ t.diagScr = s.diagScr) ∧
    t.cfg = s.cfg ∧ t.inSlice = s.inSlice ∧ t.cap = s.cap ∧ t.pending = s.pending

/-- Two commands to different units may be given in either order: each gets the same response and the units end the
same (20_memory.md R211). -/
def Obligations.CommandsToDifferentUnitsCommute : Prop :=
  ∀ (i j : Instr) (a b : List Byte) (m n : Nat) (s t1 t2 u1 u2 : State),
    unitOf i ≠ unitOf j →
    exec i { s with inSlice := a, cap := m } = .next t1 →
    exec j { t1 with inSlice := b, cap := n } = .next t2 →
    exec j { s with inSlice := b, cap := n } = .next u1 →
    exec i { u1 with inSlice := a, cap := m } = .next u2 →
    t1.response = u2.response ∧ t2.response = u1.response ∧
      t2.enc = u2.enc ∧ t2.dec = u2.dec ∧ t2.diagScr = u2.diagScr

/-- A host that keeps its contract is never stopped: every step of the block gives a next state, and the contract
still holds there (60_exceptions.md R900, R905). What the contract is here, `HostAbides`, is the model's choice: every
command stands in `pending` (log entry 2), comes with no unit busy (log entry 7; StepRunsTheDecodedCommand covers a
command given while another unit is busy), and brings at most `MAX_SLICE` bytes, that length itself included, where
93_implementation_defined.md H3 refuses it (log entry 8, unsafe at that one length). -/
def Obligations.AbidingHostIsNeverStopped : Prop :=
  ∀ s : State, HostAbides s → ∃ t, step s = .next t ∧ HostAbides t

/-! ### Control and scrambler -/

/-- NOP answers the same in every state and changes no unit; any word with opcode 0x00 is a NOP (48_control.md
R880). -/
def Obligations.NopChangesNothing : Prop :=
  (∀ s : State, exec .nop s = .next { s with response := some ⟨0, [], .cont, 0⟩ }) ∧
  ∀ w : Word, w.extractLsb' 0 8 = 0x00 → decode w = .ok .nop

/-- SCR.RESET loads `SEED` and touches nothing else (40_scrambler.md R410). -/
def Obligations.ScrResetLoadsTheSeed : Prop :=
  (∀ s : State, exec .scrReset s =
    .next { s with diagScr := s.cfg.seed, response := some ⟨0, [], .cont, 0⟩ }) ∧
  ∀ w : Word, w.extractLsb' 0 8 = 0x01 → decode w = .ok .scrReset

/-- SCR.NEXT answers eight bits of the sequence `a(k+7) = a(k+4) xor a(k)` that the scrambler state starts, the
first as bit 7, and leaves the state eight places on (40_scrambler.md R401, R402, R411). -/
def Obligations.ScrNextEmitsEightSequenceBits : Prop :=
  ∀ s : State, ∃ (a : Nat → Bool) (d : ScrState) (r : Word),
    exec .scrNext s = .next { s with diagScr := d, response := some ⟨0, [], .cont, r⟩ } ∧
    (∀ i, i < 7 → a i = s.diagScr.getLsbD i) ∧ (∀ k, a (k + 7) = (a (k + 4) ^^ a k)) ∧
    (∀ i, i < 7 → d.getLsbD i = a (8 + i)) ∧
    (∀ i, i < 8 → r.getLsbD i = a (7 - i)) ∧ ∀ i, 8 ≤ i → r.getLsbD i = false

/-- SCR.PROCESS takes `min(n, m)` bytes, XORs byte `i` with byte `i` of the keystream from `SEED` or from the present
state, and leaves and answers the state reached (40_scrambler.md R403, R412). -/
def Obligations.ScrProcessXorsTheKeystream : Prop :=
  ∀ (rst : Bool) (s : State), ∃ (c : Nat) (out : List Byte) (s0 d : ScrState),
    exec (.scrProcess rst) s =
      .next { s with diagScr := d, response := some ⟨c, out, .cont, d.setWidth 32⟩ } ∧
    c = min s.inSlice.length s.cap ∧ out.length = c ∧
    s0 = (if rst then s.cfg.seed else s.diagScr) ∧
    d = (fun x => (scrNextByte x).2)^[c] s0 ∧
    ∀ i, i < c →
      out[i]? = (s.inSlice[i]?).map (· ^^^ (scrNextByte ((fun x => (scrNextByte x).2)^[i] s0)).1)

/-- Splitting a sequence across SCR.PROCESS commands, the later with `rst = 0`, gives the same bytes and state as one
command (40_scrambler.md R412). -/
def Obligations.ScrProcessSplitsAnywhere : Prop :=
  ∀ (rst : Bool) (s t t1 t2 : State) (a b : List Byte),
    exec (.scrProcess rst) { s with inSlice := a ++ b, cap := (a ++ b).length } = .next t →
    exec (.scrProcess rst) { s with inSlice := a, cap := a.length } = .next t1 →
    exec (.scrProcess false) { t1 with inSlice := b, cap := b.length } = .next t2 →
    t.diagScr = t2.diagScr ∧
    ∃ r r1 r2, t.response = some r ∧ t1.response = some r1 ∧ t2.response = some r2 ∧
      r.out = r1.out ++ r2.out

/-- Scrambling twice from one state gives the bytes back (40_scrambler.md R404). -/
def Obligations.ScramblingIsSelfInverse : Prop :=
  ∀ (d : List Byte) (s : ScrState), (scramble (scramble d s).1 s).1 = d

/-- From every nonzero state the LFSR returns after exactly 127 steps and visits every nonzero state, and the byte
sequence has period exactly 127 (40_scrambler.md R405). -/
def Obligations.LfsrHasPeriod127 : Prop :=
  ∀ s : ScrState, s ≠ 0 →
    (fun x => (lfsrStep x).2)^[127] s = s ∧
    (∀ k, 0 < k → k < 127 → (fun x => (lfsrStep x).2)^[k] s ≠ s) ∧
    (∀ t : ScrState, t ≠ 0 → ∃ k, k < 127 ∧ (fun x => (lfsrStep x).2)^[k] s = t) ∧
    (fun x => (scrNextByte x).2)^[127] s = s ∧
    ∀ k, 0 < k → k < 127 →
      (scrNextByte ((fun x => (scrNextByte x).2)^[k] s)).1 ≠ (scrNextByte s).1

/-! ### Hamming(7,4) and CRC-32 -/

/-- HAM.ENC answers the systematic codeword: the nibble in bits 6:3, its three parity bits in bits 2:0, zero above
(41_hamming74.md R450, R451, R460). -/
def Obligations.HamEncAnswersTheCodeword : Prop :=
  ∀ (nib : BitVec 4) (s : State), ∃ r : Word,
    exec (.hamEnc nib) s = .next { s with response := some ⟨0, [], .cont, r⟩ } ∧
    r.extractLsb' 3 4 = nib ∧
    r.getLsbD 2 = (nib.getLsbD 3 ^^ nib.getLsbD 2 ^^ nib.getLsbD 0) ∧
    r.getLsbD 1 = (nib.getLsbD 3 ^^ nib.getLsbD 1 ^^ nib.getLsbD 0) ∧
    r.getLsbD 0 = (nib.getLsbD 2 ^^ nib.getLsbD 1 ^^ nib.getLsbD 0) ∧
    r.extractLsb' 7 25 = 0

/-- HAM.DEC answers the one nibble whose codeword is within one bit of the received word (41_hamming74.md R452, R453,
R461). -/
def Obligations.HamDecAnswersTheNearestNibble : Prop :=
  ∀ (cw : BitVec 7) (s : State), ∃ d : BitVec 4,
    exec (.hamDec cw) s = .next { s with response := some ⟨0, [], .cont, d.setWidth 32⟩ } ∧
    popcount ((hamEnc d ^^^ cw).setWidth 32) ≤ 1 ∧
    ∀ d' : BitVec 4, popcount ((hamEnc d' ^^^ cw).setWidth 32) ≤ 1 → d' = d

/-- The code's guarantees: the round trip, correction of one flipped bit, bit 7 ignored, and two or more flipped bits
never decoded to the original (41_hamming74.md R455). -/
def Obligations.HammingCorrectsOneBit : Prop :=
  (∀ d : BitVec 4, hamDec ((hamEnc d).setWidth 8) = d) ∧
  (∀ (d : BitVec 4) (i : Nat), i < 7 → hamDec ((hamEnc d).setWidth 8 ^^^ 1 <<< i) = d) ∧
  (∀ (d : BitVec 4) (c : Byte), c.setWidth 7 = hamEnc d → hamDec c = d) ∧
  ∀ (d : BitVec 4) (c : Byte), 2 ≤ popcount ((c.setWidth 7 ^^^ hamEnc d).setWidth 32) → hamDec c ≠ d

/-- At most one flipped bit among bits 6:0 of each codeword byte, and anything in its bit 7, never changes the decoded
payload (41_hamming74.md R456, R457). -/
def Obligations.FecCorrectsOneBitPerCodeword : Prop :=
  ∀ payload errs : List Byte, errs.length = 2 * payload.length →
    (∀ e ∈ errs, popcount ((e.setWidth 7).setWidth 32) ≤ 1) →
    fecDec (xorBytes (fecEnc payload) errs) = payload

/-- CRC32 consumes the slice and answers the bit-reflected CRC of R501, whose check value is R500's; any word
with opcode 0x06 is a CRC32 (42_crc32.md R500, R501, R510). -/
def Obligations.Crc32AnswersTheReflectedCrc : Prop :=
  (∀ s : State, ∃ r : Word,
    exec .crc32 s = .next { s with response := some ⟨s.inSlice.length, [], .cont, r⟩ } ∧
    r ^^^ (0xFFFFFFFF : Word) = s.inSlice.foldl (fun (reg : Word) (b : Byte) =>
      (fun x : Word => if x.getLsbD 0 then x >>> 1 ^^^ 0xEDB88320 else x >>> 1)^[8]
        (reg ^^^ b.setWidth 32)) 0xFFFFFFFF) ∧
  crc32 [0x31, 0x32, 0x33, 0x34, 0x35, 0x36, 0x37, 0x38, 0x39] = 0xCBF43926 ∧ crc32 [] = 0 ∧
  ∀ w : Word, w.extractLsb' 0 8 = 0x06 → decode w = .ok .crc32

/-- Two sequences that differ in one byte have different CRCs: the gate of 42_crc32.md R504 never misses an error
confined to one byte of the payload (from R501). -/
def Obligations.CrcCatchesOneChangedByte : Prop :=
  ∀ (a b : List Byte) (x y : Byte), crc32 (a ++ [x] ++ b) = crc32 (a ++ [y] ++ b) → x = y

/-! ### Frames -/

/-- FRAME.BUILD with enough input and room consumes `L` bytes and answers one frame of the layout of R550: preamble,
sync word, the scrambled region of type, group_id, slot_id, FEC payload and big-endian CRC, zero padding; and leaves
the scrambler `R` bytes past `SEED` (43_frame_format.md R550 to R554, R560, R561, R570). -/
def Obligations.FrameBuildAnswersTheLayout : Prop :=
  ∀ (type gid sid : Byte) (s : State), s.cfg.valid = true →
    s.cfg.L ≤ s.inSlice.length → s.cfg.F ≤ s.cap →
    ∃ f : List Byte,
      exec (.frameBuild type gid sid) s =
        .next { s with diagScr := (fun x => (scrNextByte x).2)^[s.cfg.R] s.cfg.seed,
                       response := some ⟨s.cfg.L, f, .cont, 0⟩ } ∧
      f.length = s.cfg.F ∧ f.take s.cfg.P = s.cfg.preamble ∧
      (f.drop s.cfg.P).take 4 = be32 s.cfg.sync ∧
      (f.drop (s.cfg.P + 4)).take s.cfg.R =
        (scramble ([type, gid, sid] ++ fecEnc (s.inSlice.take s.cfg.L) ++
          be32 (crc32 (s.inSlice.take s.cfg.L))) s.cfg.seed).1 ∧
      f.drop (s.cfg.P + 4 + s.cfg.R) = zeros s.cfg.padLen

/-- FRAME.BUILD and FRAME.PARSE without enough input or room answer NOT_PERFORMED with no state change
(30_encoding.md R309, 43_frame_format.md R570, R571). -/
def Obligations.FrameCommandsWithoutRoomAreNotPerformed : Prop :=
  (∀ (type gid sid : Byte) (s : State), s.inSlice.length < s.cfg.L ∨ s.cap < s.cfg.F →
    exec (.frameBuild type gid sid) s =
      .next { s with response := some ⟨0, [], .cont, 0xFFFFFFFF⟩ }) ∧
  ∀ (sh : BitVec 3) (o : BitVec 16) (s : State), s.cap < s.cfg.L →
    exec (.frameParse sh o) s = .next { s with response := some ⟨0, [], .cont, 0xFFFFFFFF⟩ }

/-- FRAME.PARSE of a realigned buffer of fewer than `4 + R` bytes answers SHORT, the slice consumed and the scrambler
unchanged (43_frame_format.md R565, R566, R571). -/
def Obligations.FrameParseOfShortBuffer : Prop :=
  ∀ (sh : BitVec 3) (o : BitVec 16) (s : State), s.cfg.L ≤ s.cap →
    s.inSlice.length - o.toNat - (if sh = 0 then 0 else 1) < 4 + s.cfg.R →
    exec (.frameParse sh o) s =
      .next { s with response := some ⟨s.inSlice.length, [], .cont, 0x02000000⟩ }

/-- FRAME.PARSE of a long enough buffer: the descrambled region's type, group_id, slot_id and CRC check in RESULT, its
FEC-decoded payload of `L` bytes in OUT, the scrambler `R` bytes past `SEED` (43_frame_format.md R566, R571). -/
def Obligations.FrameParseAnswersTheRecord : Prop :=
  ∀ (sh : BitVec 3) (o : BitVec 16) (s : State) (reg payload : List Byte),
    s.cfg.L ≤ s.cap →
    4 + s.cfg.R ≤ s.inSlice.length - o.toNat - (if sh = 0 then 0 else 1) →
    reg = (scramble (((realign s.inSlice o.toNat sh.toNat).drop 4).take s.cfg.R) s.cfg.seed).1 →
    payload = fecDec ((reg.drop 3).take (2 * s.cfg.L)) →
    ∃ r : Word,
      exec (.frameParse sh o) s =
        .next { s with diagScr := (fun x => (scrNextByte x).2)^[s.cfg.R] s.cfg.seed,
                       response := some ⟨s.inSlice.length, payload, .cont, r⟩ } ∧
      payload.length = s.cfg.L ∧
      reg[0]? = some (r.extractLsb' 0 8) ∧ reg[1]? = some (r.extractLsb' 8 8) ∧
      reg[2]? = some (r.extractLsb' 16 8) ∧
      (r.getLsbD 24 = true ↔ crc32 payload = fromBe32 ((reg.drop (3 + 2 * s.cfg.L)).take 4)) ∧
      r.extractLsb' 25 7 = 0

/-- `realign` reads the bit stream from bit position `8*o + s` on, and has the length R565 gives
(43_frame_format.md R565). -/
def Obligations.RealignStartsAtTheBitPosition : Prop :=
  ∀ (buf : List Byte) (o s : Nat), s < 8 →
    (realign buf o s).length = (if s = 0 then buf.length - o else buf.length - o - 1) ∧
    ∀ p, p < 8 * (realign buf o s).length → bitAt (realign buf o s) p = bitAt buf (8 * o + s + p)

/-- Round trip: parsing a built frame gives the header and payload back with a CRC match, at its own place and
wherever its bits, from the sync word to the region's end, stand in a longer buffer (43_frame_format.md R568). -/
def Obligations.FrameRoundTrip : Prop :=
  ∀ (cfg : Config) (type gid sid : Byte) (payload : List Byte),
    cfg.valid = true → payload.length = cfg.L →
    frameParse cfg (frameBuild cfg type gid sid payload).1 cfg.P 0 =
      some ⟨type, gid, sid, payload, true, (frameBuild cfg type gid sid payload).2⟩ ∧
    ∀ (buf : List Byte) (o s : Nat), s < 8 →
      BitsAt buf (8 * o + s) (((frameBuild cfg type gid sid payload).1.drop cfg.P).take (4 + cfg.R)) →
      frameParse cfg buf o s =
        some ⟨type, gid, sid, payload, true, (frameBuild cfg type gid sid payload).2⟩

/-! ### Soft sync search -/

/-- SYNC.SEARCH of a slice under `2^28` bytes answers bit 31 and the lowest bit position whose 32 bits are within `T`
bits of `SYNC`, or 0 when no position qualifies; any word with opcode 0x09 is a SYNC.SEARCH
(44_sync_search.md R600 to R602, R610). -/
def Obligations.SyncSearchAnswersTheFirstPosition : Prop :=
  (∀ s : State, s.inSlice.length < 2 ^ 28 →
    ∃ r : Word,
      exec .syncSearch s = .next { s with response := some ⟨s.inSlice.length, [], .cont, r⟩ } ∧
      ((∃ b, b + 32 ≤ 8 * s.inSlice.length ∧ syncDistance s.cfg s.inSlice b ≤ s.cfg.T) →
        r.getLsbD 31 = true ∧
        (r.setWidth 31).toNat + 32 ≤ 8 * s.inSlice.length ∧
        syncDistance s.cfg s.inSlice (r.setWidth 31).toNat ≤ s.cfg.T ∧
        ∀ b, b < (r.setWidth 31).toNat → s.cfg.T < syncDistance s.cfg s.inSlice b) ∧
      ((∀ b, b + 32 ≤ 8 * s.inSlice.length → s.cfg.T < syncDistance s.cfg s.inSlice b) → r = 0)) ∧
  ∀ w : Word, w.extractLsb' 0 8 = 0x09 → decode w = .ok .syncSearch

/-- At the reference configuration, wherever a frame stands and whatever it holds: no window that starts in its preamble
is nearer than 11 bits to the sync word, the window at its sync word is at distance 0, and a search that begins at any
of its preamble bytes finds its sync word (44_sync_search.md R605). -/
def Obligations.ReferenceFramesSyncAtTheirSyncWord : Prop :=
  ∀ (type gid sid : Byte) (payload before after : List Byte) (k : Nat), payload.length = 10 → k < 16 →
    (∀ b, b < 128 →
      11 ≤ syncDistance Config.reference
        (before ++ (frameBuild Config.reference type gid sid payload).1 ++ after) (8 * before.length + b)) ∧
    syncDistance Config.reference
      (before ++ (frameBuild Config.reference type gid sid payload).1 ++ after)
      (8 * before.length + 128) = 0 ∧
    syncSearch Config.reference
      ((frameBuild Config.reference type gid sid payload).1.drop k ++ after) = some (16 - k, 0)

/-! ### Encoder unit -/

/-- ENC.RESET gives the encoder unit its power-on state and touches nothing else (46_encoder_fsm.md R701, R720,
10_state.md R160). -/
def Obligations.EncResetStartsASession : Prop :=
  ∀ s : State, ∃ e : EncUnit,
    exec .encReset s = .next { s with enc := e, response := some ⟨0, [], .cont, 0⟩ } ∧
    e =
      { state := if s.cfg.nTrain ≠ 0 then .training else if s.cfg.nStart ≠ 0 then .start else .data,
        phaseCnt := 0, groupId := if s.cfg.nTrain = 0 ∧ s.cfg.nStart = 0 then 1 else 0,
        slotCnt := 0, parityAcc := zeros s.cfg.L, stage := zeros s.cfg.L, stageCnt := 0,
        scr := s.cfg.seed, cntTraining := 0, cntStart := 0, cntData := 0, cntParity := 0, cntEnd := 0 }

/-- In FINISHED, ENC.FEED and DEC.FEED consume the whole slice, output nothing, change no state and answer DONE, whatever
`m` is (46_encoder_fsm.md R706, 47_decoder_fsm.md R816). -/
def Obligations.FeedsInFinishedAnswerDone : Prop :=
  ∀ s : State,
    (s.enc.state = .finished →
      exec .encFeed s = .next { s with response := some ⟨s.inSlice.length, [], .done, 0⟩ }) ∧
    (s.dec.state = .finished →
      exec .decFeed s = .next { s with response := some ⟨s.inSlice.length, [], .done, 0⟩ })

/-- Outside FINISHED, ENC.FEED with `m < F` consumes nothing, emits nothing and changes no state
(46_encoder_fsm.md R707). -/
def Obligations.EncFeedWithoutRoomDoesNothing : Prop :=
  ∀ s : State, s.enc.state ≠ .finished → s.cap < s.cfg.F →
    exec .encFeed s = .next { s with response := some ⟨0, [], .cont, 0⟩ }

/-- A repeat-phase step with `m >= F` emits one frame of the phase's type with group_id 0, slot_id 0 and a zero payload,
counts it in the phase and in the type's counter, and enters the next state when the phase's count is reached; it
consumes nothing (46_encoder_fsm.md R702, R703, R708). -/
def Obligations.EncFeedRepeatPhaseEmitsOneFrame : Prop :=
  ∀ (s : State) (type : Byte) (N : Nat) (after : EncState) (base e1 : EncUnit) (f : List Byte × ScrState),
    s.cfg.F ≤ s.cap → f = frameBuild s.cfg type 0 0 (zeros s.cfg.L) →
    base = { s.enc with phaseCnt := s.enc.phaseCnt + 1, scr := f.2 } →
    (s.enc.state = .training ∧ type = 0x01 ∧ N = s.cfg.nTrain ∧ after = .start ∧
      e1 = { base with cntTraining := s.enc.cntTraining + 1 } ∨
     s.enc.state = .start ∧ type = 0x02 ∧ N = s.cfg.nStart ∧ after = .data ∧
      e1 = { base with cntStart := s.enc.cntStart + 1 } ∨
     s.enc.state = .endPhase ∧ type = 0x05 ∧ N = s.cfg.nEnd ∧ after = .finished ∧
      e1 = { base with cntEnd := s.enc.cntEnd + 1 }) →
    exec .encFeed s = .next
      { s with
        enc := if (s.enc.phaseCnt + 1).toNat = N then encEnter s.cfg after e1 else e1
        response := some ⟨0, f.1, .cont, 0⟩ }

/-- A state entry: a repeat phase of count 0 is left at once, `ENC_PHASE_CNT` is zeroed, and entering DATA starts group
1 with a fresh accumulator and an empty stage (46_encoder_fsm.md R701). -/
def Obligations.EncEnterSkipsEmptyPhases : Prop :=
  ∀ (cfg : Config) (S S' : EncState) (e : EncUnit),
    S' = (match S with
      | .training => if cfg.nTrain ≠ 0 then .training else if cfg.nStart ≠ 0 then .start else .data
      | .start => if cfg.nStart ≠ 0 then .start else .data
      | .data => .data
      | .endPhase => if cfg.nEnd ≠ 0 then .endPhase else .finished
      | .finished => .finished) →
    encEnter cfg S e =
      if S' = .data then
        { e with state := S', phaseCnt := 0, groupId := 1, parityAcc := zeros cfg.L, slotCnt := 0,
                 stageCnt := 0 }
      else { e with state := S', phaseCnt := 0 }

/-- In DATA with `m >= F`, input that does not fill the stage is all consumed into it and nothing is emitted
(46_encoder_fsm.md R711). -/
def Obligations.EncFeedStagesIncompleteChunks : Prop :=
  ∀ s : State, s.enc.state = .data → s.cfg.F ≤ s.cap →
    s.enc.stageCnt + s.inSlice.length < s.cfg.L →
    exec .encFeed s = .next
      { s with
        enc := { s.enc with
          stage := s.enc.stage.take s.enc.stageCnt ++ s.inSlice ++
            s.enc.stage.drop (s.enc.stageCnt + s.inSlice.length)
          stageCnt := s.enc.stageCnt + s.inSlice.length }
        response := some ⟨s.inSlice.length, [], .cont, 0⟩ }

/-- A sentinel chunk emits the group's PARITY frame if the group holds data, and enters END; it is consumed and never
emitted (46_encoder_fsm.md R711, R712). -/
def Obligations.EncFeedSentinelEntersEnd : Prop :=
  ∀ (s : State) (k : Nat) (e1 : EncUnit) (out : List Byte),
    s.enc.state = .data → s.cfg.F ≤ s.cap → s.enc.stage.length = s.cfg.L →
    s.enc.stageCnt ≤ s.cfg.L → k = s.cfg.L - s.enc.stageCnt → k ≤ s.inSlice.length →
    s.enc.stage.take s.enc.stageCnt ++ s.inSlice.take k = s.cfg.eos →
    (if s.enc.slotCnt = 0 then
       e1 = { s.enc with stage := s.cfg.eos, stageCnt := 0 } ∧ out = []
     else
       e1 = { s.enc with
          stage := s.cfg.eos
          stageCnt := 0
          scr := (frameBuild s.cfg 0x04 s.enc.groupId (BitVec.ofNat 8 s.cfg.G) s.enc.parityAcc).2
          cntParity := s.enc.cntParity + 1 } ∧
       out = (frameBuild s.cfg 0x04 s.enc.groupId (BitVec.ofNat 8 s.cfg.G) s.enc.parityAcc).1) →
    exec .encFeed s = .next
      { s with enc := encEnter s.cfg .endPhase e1, response := some ⟨k, out, .cont, 0⟩ }

/-- An ordinary chunk with the group full emits the group's PARITY frame, advances the group_id past 0 and starts a
fresh group; the chunk stays staged (46_encoder_fsm.md R704, R711, R714). -/
def Obligations.EncFeedFullGroupEmitsParity : Prop :=
  ∀ (s : State) (k : Nat) (ch : List Byte),
    s.enc.state = .data → s.cfg.F ≤ s.cap → s.enc.stage.length = s.cfg.L →
    s.enc.stageCnt ≤ s.cfg.L → k = s.cfg.L - s.enc.stageCnt → k ≤ s.inSlice.length →
    ch = s.enc.stage.take s.enc.stageCnt ++ s.inSlice.take k → ch ≠ s.cfg.eos →
    s.enc.slotCnt.toNat = s.cfg.G →
    exec .encFeed s = .next
      { s with
        enc := { s.enc with
          stage := ch
          stageCnt := s.cfg.L
          groupId := if s.enc.groupId = 255 then 1 else s.enc.groupId + 1
          parityAcc := zeros s.cfg.L
          slotCnt := 0
          scr := (frameBuild s.cfg 0x04 s.enc.groupId (BitVec.ofNat 8 s.cfg.G) s.enc.parityAcc).2
          cntParity := s.enc.cntParity + 1 }
        response := some
          ⟨k, (frameBuild s.cfg 0x04 s.enc.groupId (BitVec.ofNat 8 s.cfg.G) s.enc.parityAcc).1, .cont, 0⟩ }

/-- An ordinary chunk with room in the group enters the parity and is emitted as the DATA frame of the next slot
(46_encoder_fsm.md R711, R713). -/
def Obligations.EncFeedOrdinaryChunkEmitsData : Prop :=
  ∀ (s : State) (k : Nat) (ch : List Byte),
    s.enc.state = .data → s.cfg.F ≤ s.cap → s.enc.stage.length = s.cfg.L →
    s.enc.stageCnt ≤ s.cfg.L → k = s.cfg.L - s.enc.stageCnt → k ≤ s.inSlice.length →
    ch = s.enc.stage.take s.enc.stageCnt ++ s.inSlice.take k → ch ≠ s.cfg.eos →
    s.enc.slotCnt.toNat < s.cfg.G →
    exec .encFeed s = .next
      { s with
        enc := { s.enc with
          stage := ch
          stageCnt := 0
          parityAcc := List.zipWith (· ^^^ ·) s.enc.parityAcc ch
          slotCnt := s.enc.slotCnt + 1
          scr := (frameBuild s.cfg 0x03 s.enc.groupId s.enc.slotCnt ch).2
          cntData := s.enc.cntData + 1 }
        response := some ⟨k, (frameBuild s.cfg 0x03 s.enc.groupId s.enc.slotCnt ch).1, .cont, 0⟩ }

/-- Fed one chunk a command from an empty group, the encoder emits a DATA frame each and `ENC_PARITY_ACC` is the XOR of
the chunks sent (45_erasure_group.md R650, R652). -/
def Obligations.EncParityIsTheXorOfTheGroup : Prop :=
  ∀ (cfg : Config) (m : Nat) (chunks : List (List Byte)) (e : EncUnit),
    cfg.valid = true → cfg.F ≤ m → e.state = .data → e.slotCnt = 0 → e.stageCnt = 0 →
    e.parityAcc = zeros cfg.L → e.stage.length = cfg.L → chunks.length ≤ cfg.G →
    (∀ ch ∈ chunks, ch.length = cfg.L ∧ ch ≠ cfg.eos) →
    (encFeedChunks cfg m chunks e).parityAcc = xorAll cfg.L chunks ∧
    (encFeedChunks cfg m chunks e).slotCnt.toNat = chunks.length ∧
    (encFeedChunks cfg m chunks e).state = .data ∧
    (encFeedChunks cfg m chunks e).groupId = e.groupId ∧
    (encFeedChunks cfg m chunks e).cntData = e.cntData + BitVec.ofNat 32 chunks.length

/-- No command but ENC.RESET takes the encoder to an earlier state, none but DEC.RESET the decoder, and only the unit's own
feed takes it to a later one (46_encoder_fsm.md R700, 47_decoder_fsm.md R800). -/
def Obligations.OnlyUnitResetsGoBack : Prop :=
  ∀ (i : Instr) (s t : State), exec i s = .next t →
    (i ≠ .encReset → s.enc.state.rank ≤ t.enc.state.rank ∧ (i ≠ .encFeed → t.enc.state = s.enc.state)) ∧
    (i ≠ .decReset → s.dec.state.rank ≤ t.dec.state.rank ∧ (i ≠ .decFeed → t.dec.state = s.dec.state))

/-- ENC.STAT answers the register at a listed index and ILLEGAL at any other, and changes nothing (10_state.md R150,
46_encoder_fsm.md R730). -/
def Obligations.EncStatReadsTheMap : Prop :=
  ∀ (idx : BitVec 8) (s : State),
    (∀ v, (idx, v) ∈ ([(0, s.enc.state.code.setWidth 32), (1, s.enc.phaseCnt),
        (2, s.enc.groupId.setWidth 32), (3, s.enc.slotCnt.setWidth 32),
        (4, BitVec.ofNat 32 s.enc.stageCnt), (5, s.enc.scr.setWidth 32), (8, s.enc.cntTraining),
        (9, s.enc.cntStart), (10, s.enc.cntData), (11, s.enc.cntParity),
        (12, s.enc.cntEnd)] : List (BitVec 8 × Word)) →
      exec (.encStat idx) s = .next { s with response := some ⟨0, [], .cont, v⟩ }) ∧
    (idx ∉ ([0, 1, 2, 3, 4, 5, 8, 9, 10, 11, 12] : List (BitVec 8)) →
      exec (.encStat idx) s = .next { s with response := some ⟨0, [], .illegal, 0⟩ })

/-! ### Erasure group -/

/-- One missing data slot with the parity present is rebuilt exactly: the flush gives every payload of the group in
order, counts one recovery and clears the buffer (45_erasure_group.md R650, R651, R660, R662, R665). -/
def Obligations.GroupFlushRebuildsOneMissingSlot : Prop :=
  ∀ (cfg : Config) (d : DecUnit) (ds : List (List Byte)) (j : Nat),
    ds.length = cfg.G → (∀ p ∈ ds, p.length = cfg.L) → j < cfg.G →
    d.slot.length = cfg.G + 1 →
    (∀ i, i < cfg.G → i ≠ j → d.slot[i]? = ds[i]? ∧ d.present[i]? = some true) →
    d.present[j]? = some false →
    d.slot[cfg.G]? = some (xorAll cfg.L ds) → d.present[cfg.G]? = some true →
    (groupFlush cfg d).2 = ds.flatten ∧
    (groupFlush cfg d).1 =
      { d with slot := ds ++ [xorAll cfg.L ds], present := List.replicate (cfg.G + 1) false,
               cntRecovered := d.cntRecovered + 1 }

/-- A complete group is flushed in slot order, and a group with a gap that cannot be rebuilt gives only its present
data slots, in slot order; neither counts a recovery, and both clear the buffer (45_erasure_group.md R660 to R663). -/
def Obligations.GroupFlushWithoutRebuilding : Prop :=
  ∀ (cfg : Config) (d : DecUnit) (miss : List Nat),
    miss = (List.range cfg.G).filter (fun i => d.present[i]? != some true) →
    (miss = [] → (groupFlush cfg d).2 = ((List.range cfg.G).map (fun i => (d.slot[i]?).getD [])).flatten) ∧
    (2 ≤ miss.length ∨ miss ≠ [] ∧ d.present[cfg.G]? ≠ some true →
      (groupFlush cfg d).2 =
        (((List.range cfg.G).filter (fun i => d.present[i]? == some true)).map
          (fun i => (d.slot[i]?).getD [])).flatten) ∧
    (miss = [] ∨ 2 ≤ miss.length ∨ d.present[cfg.G]? ≠ some true →
      (groupFlush cfg d).1 = { d with present := List.replicate (cfg.G + 1) false })

/-! ### Decoder unit -/

/-- DEC.RESET gives the decoder unit its power-on state and touches nothing else (47_decoder_fsm.md R820, 10_state.md
R160). -/
def Obligations.DecResetStartsASession : Prop :=
  ∀ s : State, exec .decReset s = .next
    { s with
      dec :=
        { state := .training, curGroupValid := false, curGroup := 0,
          slot := List.replicate (s.cfg.G + 1) (zeros s.cfg.L),
          present := List.replicate (s.cfg.G + 1) false, rx := [], scr := s.cfg.seed,
          cntTraining := 0, cntStart := 0, cntData := 0, cntParity := 0, cntEnd := 0,
          cntRecovered := 0, cntCrcFail := 0 }
      response := some ⟨0, [], .cont, 0⟩ }

/-- Outside FINISHED, DEC.FEED with `m < G*L` accepts input up to the window's room and makes no attempt
(47_decoder_fsm.md R801, R802). -/
def Obligations.DecFeedWithoutRoomOnlyAccepts : Prop :=
  ∀ (s : State) (k : Nat), s.dec.state ≠ .finished → s.cap < s.cfg.G * s.cfg.L →
    k = min s.inSlice.length (s.cfg.rxcap - s.dec.rx.length) →
    exec .decFeed s = .next
      { s with dec := { s.dec with rx := s.dec.rx ++ s.inSlice.take k },
               response := some ⟨k, [], .cont, 0⟩ }

/-- No sync word in the window: all but its last four bytes are discarded, so at most four stay, nothing is output and
no other state changes (47_decoder_fsm.md R801, R804, R817). -/
def Obligations.DecFeedWithoutSyncKeepsFourBytes : Prop :=
  ∀ (s : State) (k : Nat) (win : List Byte), s.dec.state ≠ .finished →
    s.cfg.G * s.cfg.L ≤ s.cap → k = min s.inSlice.length (s.cfg.rxcap - s.dec.rx.length) →
    win = s.dec.rx ++ s.inSlice.take k →
    (∀ b, b + 32 ≤ 8 * win.length → s.cfg.T < syncDistance s.cfg win b) →
    exec .decFeed s = .next
      { s with dec := { s.dec with rx := win.drop (win.length - 4) },
               response := some ⟨k, [], .cont, 0⟩ } ∧
    (win.drop (win.length - 4)).length ≤ 4

/-- A short candidate: the bytes before it are discarded, the rest wait, no other state changes (47_decoder_fsm.md
R801, R805). -/
def Obligations.DecFeedShortKeepsTheCandidate : Prop :=
  ∀ (s : State) (k o sh : Nat) (win : List Byte), s.dec.state ≠ .finished →
    s.cfg.G * s.cfg.L ≤ s.cap → k = min s.inSlice.length (s.cfg.rxcap - s.dec.rx.length) →
    win = s.dec.rx ++ s.inSlice.take k →
    syncSearch s.cfg win = some (o, sh) →
    win.length - o - (if sh = 0 then 0 else 1) < 4 + s.cfg.R →
    exec .decFeed s = .next
      { s with dec := { s.dec with rx := win.drop o }, response := some ⟨k, [], .cont, 0⟩ }

/-- A CRC mismatch: the failure counter rises, the window starts one byte past the candidate's first byte, nothing is
output and nothing else changes but the scrambler register (47_decoder_fsm.md R801, R807, R808). -/
def Obligations.DecFeedCrcMismatchSkipsOneByte : Prop :=
  ∀ (s : State) (k o sh : Nat) (win : List Byte) (p : Parsed), s.dec.state ≠ .finished →
    s.cfg.G * s.cfg.L ≤ s.cap → k = min s.inSlice.length (s.cfg.rxcap - s.dec.rx.length) →
    win = s.dec.rx ++ s.inSlice.take k →
    syncSearch s.cfg win = some (o, sh) → frameParse s.cfg win o sh = some p → p.crcOk = false →
    exec .decFeed s = .next
      { s with
        dec := { s.dec with rx := win.drop (o + 1), scr := p.sEnd, cntCrcFail := s.dec.cntCrcFail + 1 }
        response := some ⟨k, [], .cont, 0⟩ }

/-- An accepted TRAINING frame is counted in any state outside FINISHED; a DATA or PARITY frame accepted in TRAINING and
an accepted frame of no type code are not. Nothing else changes but the window and the scrambler register
(47_decoder_fsm.md R807, R809, R811, R815). -/
def Obligations.DecFeedTrainingAndIgnoredFrames : Prop :=
  ∀ (s : State) (k o sh : Nat) (win : List Byte) (p : Parsed), s.dec.state ≠ .finished →
    s.cfg.G * s.cfg.L ≤ s.cap → k = min s.inSlice.length (s.cfg.rxcap - s.dec.rx.length) →
    win = s.dec.rx ++ s.inSlice.take k →
    syncSearch s.cfg win = some (o, sh) → frameParse s.cfg win o sh = some p → p.crcOk = true →
    (p.type = 0x01 →
      exec .decFeed s = .next
        { s with
          dec := { s.dec with rx := win.drop (o + 4 + s.cfg.R), scr := p.sEnd,
                              cntTraining := s.dec.cntTraining + 1 }
          response := some ⟨k, [], .cont, 0⟩ }) ∧
    (s.dec.state = .training ∧ (p.type = 0x03 ∨ p.type = 0x04) ∨
      p.type ∉ ([0x01, 0x02, 0x03, 0x04, 0x05] : List Byte) →
      exec .decFeed s = .next
        { s with dec := { s.dec with rx := win.drop (o + 4 + s.cfg.R), scr := p.sEnd },
                 response := some ⟨k, [], .cont, 0⟩ })

/-- An accepted START frame enters RECEIVING with no current group and an empty buffer, its slots unchanged and
nothing output (47_decoder_fsm.md R807, R809, R813, 45_erasure_group.md R657). -/
def Obligations.DecFeedStartFrameEntersReceiving : Prop :=
  ∀ (s : State) (k o sh : Nat) (win : List Byte) (p : Parsed), s.dec.state ≠ .finished →
    s.cfg.G * s.cfg.L ≤ s.cap → k = min s.inSlice.length (s.cfg.rxcap - s.dec.rx.length) →
    win = s.dec.rx ++ s.inSlice.take k →
    syncSearch s.cfg win = some (o, sh) → frameParse s.cfg win o sh = some p → p.crcOk = true →
    p.type = 0x02 →
    exec .decFeed s = .next
      { s with
        dec := { s.dec with rx := win.drop (o + 4 + s.cfg.R), scr := p.sEnd, state := .receiving,
                            curGroupValid := false, curGroup := 0,
                            present := List.replicate (s.cfg.G + 1) false,
                            cntStart := s.dec.cntStart + 1 }
        response := some ⟨k, [], .cont, 0⟩ }

/-- An accepted END frame flushes the group into the response, and enters FINISHED with no current group; the response
is still CONT (47_decoder_fsm.md R807, R809, R812). -/
def Obligations.DecFeedEndFrameFlushesAndFinishes : Prop :=
  ∀ (s : State) (k o sh : Nat) (win : List Byte) (p : Parsed) (f : DecUnit × List Byte),
    s.dec.state ≠ .finished →
    s.cfg.G * s.cfg.L ≤ s.cap → k = min s.inSlice.length (s.cfg.rxcap - s.dec.rx.length) →
    win = s.dec.rx ++ s.inSlice.take k →
    syncSearch s.cfg win = some (o, sh) → frameParse s.cfg win o sh = some p → p.crcOk = true →
    p.type = 0x05 →
    f = groupFlush s.cfg
      { s.dec with rx := win.drop (o + 4 + s.cfg.R), scr := p.sEnd, cntEnd := s.dec.cntEnd + 1 } →
    exec .decFeed s = .next
      { s with
        dec := { f.1 with state := .finished, curGroupValid := false, curGroup := 0 }
        response := some ⟨k, f.2, .cont, 0⟩ }

/-- An accepted DATA or PARITY frame in RECEIVING is counted; a group_id other than the current one, or none current,
flushes the previous group into the response first and is adopted; then the payload is stored at its slot_id, dropped
above `G` (47_decoder_fsm.md R807, R809, R814, 45_erasure_group.md R656). -/
def Obligations.DecFeedPayloadFramesAreFiled : Prop :=
  ∀ (s : State) (k o sh : Nat) (win : List Byte) (p : Parsed) (d1 : DecUnit) (f : DecUnit × List Byte),
    s.dec.state = .receiving →
    s.cfg.G * s.cfg.L ≤ s.cap → k = min s.inSlice.length (s.cfg.rxcap - s.dec.rx.length) →
    win = s.dec.rx ++ s.inSlice.take k →
    syncSearch s.cfg win = some (o, sh) → frameParse s.cfg win o sh = some p → p.crcOk = true →
    (p.type = 0x03 ∧ d1 = { s.dec with rx := win.drop (o + 4 + s.cfg.R), scr := p.sEnd,
                                       cntData := s.dec.cntData + 1 } ∨
     p.type = 0x04 ∧ d1 = { s.dec with rx := win.drop (o + 4 + s.cfg.R), scr := p.sEnd,
                                       cntParity := s.dec.cntParity + 1 }) →
    (if s.dec.curGroupValid = true ∧ s.dec.curGroup = p.gid then f = (d1, [])
     else f = ({ (groupFlush s.cfg d1).1 with curGroup := p.gid, curGroupValid := true },
               (groupFlush s.cfg d1).2)) →
    exec .decFeed s = .next
      { s with
        dec :=
          if p.sid.toNat ≤ s.cfg.G then
            { f.1 with slot := f.1.slot.set p.sid.toNat p.payload,
                       present := f.1.present.set p.sid.toNat true }
          else f.1
        response := some ⟨k, f.2, .cont, 0⟩ }

/-- A full window always gives up at least one byte in an attempt, so a host that keeps feeding is never refused input
for ever (47_decoder_fsm.md R806). -/
def Obligations.FullWindowAlwaysMakesRoom : Prop :=
  ∀ s t : State, s.cfg.valid = true → s.dec.state ≠ .finished → s.dec.rx.length = s.cfg.rxcap →
    s.cfg.G * s.cfg.L ≤ s.cap → exec .decFeed s = .next t → t.dec.rx.length < s.cfg.rxcap

/-- DEC.STAT answers the register at a listed index and ILLEGAL at any other, and changes nothing; the presence word
shows slot `i` in bit `i` (10_state.md R151, 47_decoder_fsm.md R830). -/
def Obligations.DecStatReadsTheMap : Prop :=
  ∀ (idx : BitVec 8) (s : State),
    (∀ v, (idx, v) ∈ ([(0, s.dec.state.code.setWidth 32),
        (1, (if s.dec.curGroupValid then 0x100 else 0) ||| s.dec.curGroup.setWidth 32),
        (3, BitVec.ofNat 32 s.dec.rx.length), (5, s.dec.scr.setWidth 32),
        (8, s.dec.cntTraining), (9, s.dec.cntStart), (10, s.dec.cntData), (11, s.dec.cntParity),
        (12, s.dec.cntEnd), (13, s.dec.cntRecovered),
        (14, s.dec.cntCrcFail)] : List (BitVec 8 × Word)) →
      exec (.decStat idx) s = .next { s with response := some ⟨0, [], .cont, v⟩ }) ∧
    (idx = 2 → ∃ v : Word,
      exec (.decStat idx) s = .next { s with response := some ⟨0, [], .cont, v⟩ } ∧
      ∀ i, i < 32 → (v.getLsbD i = true ↔ s.dec.present[i]? = some true)) ∧
    (idx ∉ ([0, 1, 2, 3, 5, 8, 9, 10, 11, 12, 13, 14] : List (BitVec 8)) →
      exec (.decStat idx) s = .next { s with response := some ⟨0, [], .illegal, 0⟩ })

/-- Encoder to decoder, one clean frame at the reference configuration: a DATA frame of the current group, fed
byte-aligned and whole to a receiving decoder with an empty window, is found, checked and stored at its slot, and its
padding byte is what stays in the window. PARITY frames, a change of group and bit shifts are not in this statement
(43_frame_format.md R560, R568, 44_sync_search.md R605, 47_decoder_fsm.md R814, R818). -/
def Obligations.CleanFrameReachesItsSlot : Prop :=
  ∀ (s : State) (gid sid : Byte) (payload : List Byte),
    s.cfg = Config.reference → payload.length = 10 → sid.toNat ≤ 4 →
    s.dec.state = .receiving → s.dec.curGroupValid = true → s.dec.curGroup = gid → s.dec.rx = [] →
    40 ≤ s.cap → s.inSlice = (frameBuild Config.reference 0x03 gid sid payload).1 →
    exec .decFeed s = .next
      { s with
        dec := { s.dec with
          rx := [0]
          scr := 0x09
          slot := s.dec.slot.set sid.toNat payload
          present := s.dec.present.set sid.toNat true
          cntData := s.dec.cntData + 1 }
        response := some ⟨48, [], .cont, 0⟩ }
end

