-- ==== Sys2Proof/Laws/Config.lean ====
section
/-! SUPPORT. What a configuration that defines a block gives (00_scope.md R11). -/

namespace Sys2Proof

/-- The constraints of R11, as a conjunction. -/
theorem Config.valid_iff (c : Config) :
    c.valid = true ↔
      1 ≤ c.L ∧ 1 ≤ c.G ∧ c.G ≤ 255 ∧ c.T ≤ 32 ∧ c.seed ≠ 0 ∧ c.P + 4 + c.R ≤ c.F ∧
        4 + c.R + 1 ≤ c.rxcap ∧ c.eos.length = c.L ∧ c.maxSlice < 2 ^ 28 := by
  simp only [Config.valid, Bool.and_eq_true, decide_eq_true_eq, and_assoc]

theorem Config.one_le_L {c : Config} (h : c.valid = true) : 1 ≤ c.L := (c.valid_iff.1 h).1
theorem Config.one_le_G {c : Config} (h : c.valid = true) : 1 ≤ c.G := (c.valid_iff.1 h).2.1
theorem Config.G_le {c : Config} (h : c.valid = true) : c.G ≤ 255 := (c.valid_iff.1 h).2.2.1
theorem Config.seed_ne {c : Config} (h : c.valid = true) : c.seed ≠ 0 := (c.valid_iff.1 h).2.2.2.2.1
/-- A whole frame fits in `F` bytes. -/
theorem Config.frame_fits {c : Config} (h : c.valid = true) : c.P + 4 + c.R ≤ c.F :=
  (c.valid_iff.1 h).2.2.2.2.2.1
/-- The receive window holds a whole region at any bit shift. -/
theorem Config.window_fits {c : Config} (h : c.valid = true) : 4 + c.R + 1 ≤ c.rxcap :=
  (c.valid_iff.1 h).2.2.2.2.2.2.1
theorem Config.eos_length {c : Config} (h : c.valid = true) : c.eos.length = c.L :=
  (c.valid_iff.1 h).2.2.2.2.2.2.2.1
theorem Config.maxSlice_lt {c : Config} (h : c.valid = true) : c.maxSlice < 2 ^ 28 :=
  (c.valid_iff.1 h).2.2.2.2.2.2.2.2

end Sys2Proof
end

