-- ==== Sys2Proof/Laws/Scrambler.lean ====
section
/-! SUPPORT. What the scrambler's operations do (40_scrambler.md R400 to R403), said once. -/

namespace Sys2Proof.Machine

/-- The scrambler state after one byte (R402). -/
abbrev scrAdvance (s : ScrState) : ScrState := (scrNextByte s).2

/-- One LFSR step never reaches state 0 from a nonzero state (R400). -/
theorem lfsrStep_ne_zero : ∀ s : ScrState, s ≠ 0 → (lfsrStep s).2 ≠ 0 := by decide +kernel

/-- One byte of keystream never reaches state 0 from a nonzero state (R400). -/
theorem scrNextByte_ne_zero : ∀ s : ScrState, s ≠ 0 → (scrNextByte s).2 ≠ 0 := by decide +kernel

@[simp] theorem scramble_nil (s : ScrState) : scramble [] s = ([], s) := rfl

@[simp] theorem scramble_cons (b : Byte) (bs : List Byte) (s : ScrState) :
    scramble (b :: bs) s =
      ((b ^^^ (scrNextByte s).1) :: (scramble bs (scrNextByte s).2).1,
        (scramble bs (scrNextByte s).2).2) := rfl

/-- Scrambling keeps the length. -/
@[simp] theorem scramble_length (d : List Byte) (s : ScrState) : (scramble d s).1.length = d.length := by
  induction d generalizing s with
  | nil => rfl
  | cons b bs ih => simp [ih]

/-- The state reached depends on the length alone: one advance a byte (R561). -/
theorem scramble_state (d : List Byte) (s : ScrState) : (scramble d s).2 = scrAdvance^[d.length] s := by
  induction d generalizing s with
  | nil => rfl
  | cons b bs ih => simp [ih, Function.iterate_succ_apply]

/-- Scrambling never reaches state 0 from a nonzero state. -/
theorem scramble_ne_zero (d : List Byte) (s : ScrState) (h : s ≠ 0) : (scramble d s).2 ≠ 0 := by
  induction d generalizing s with
  | nil => exact h
  | cons b bs ih => exact ih _ (scrNextByte_ne_zero s h)

/-- Scrambling a concatenation is scrambling its parts in turn (R412). -/
theorem scramble_append (a b : List Byte) (s : ScrState) :
    scramble (a ++ b) s =
      ((scramble a s).1 ++ (scramble b (scramble a s).2).1, (scramble b (scramble a s).2).2) := by
  induction a generalizing s with
  | nil => rfl
  | cons x xs ih => simp [ih]

/-- Byte `i` of the output is byte `i` of the input XORed with byte `i` of the keystream (R403). -/
theorem scramble_getElem? (d : List Byte) (s : ScrState) (i : Nat) :
    (scramble d s).1[i]? = d[i]?.map (· ^^^ (scrNextByte (scrAdvance^[i] s)).1) := by
  induction d generalizing s i with
  | nil => simp
  | cons b bs ih => cases i with
    | zero => simp
    | succ i => simp [ih, Function.iterate_succ_apply]

end Sys2Proof.Machine
end

