-- ==== Sys2Proof/Laws/Frame.lean ====
section
/-! SUPPORT. What the operations on payloads and frames do (41_hamming74.md R456, 42_crc32.md R501,
43_frame_format.md R550 to R566), said once: their lengths, their parts, and how a parse ends. -/

namespace Sys2Proof.Machine

@[simp] theorem zeros_length (n : Nat) : (zeros n).length = n := by simp [zeros]

/-- XOR of two sequences is as long as the shorter (R14). -/
@[simp] theorem xorBytes_length (a b : List Byte) : (xorBytes a b).length = min a.length b.length := by
  simp [xorBytes]

@[simp] theorem be32_length (v : Word) : (be32 v).length = 4 := rfl

/-- A payload byte is carried as two bytes (R456). -/
@[simp] theorem fecEnc_length (p : List Byte) : (fecEnc p).length = 2 * p.length := by
  induction p with
  | nil => rfl
  | cons b bs ih => simp [fecEnc, fecEncByte, ih]; omega

/-- Two bytes give one payload byte (R456). -/
@[simp] theorem fecDec_length (f : List Byte) : (fecDec f).length = f.length / 2 := by
  induction f using fecDec.induct with
  | case1 hi lo rest ih => simp only [fecDec, List.length_cons, ih]; omega
  | case2 f h =>
    rcases f with _ | ⟨a, _ | ⟨b, t⟩⟩
    · rfl
    · simp [fecDec]
    · exact absurd rfl (h a b t)

/-- The table of R451 is the function of R450. -/
theorem hamEncRom_eq : ∀ d : BitVec 4, hamEncRom.getD d.toNat 0 = hamEnc d := by decide

/-- The table of R453 on seven bits. -/
theorem hamDecRom_eq : ∀ c : BitVec 7, hamDecRom.getD c.toNat 0 = hamDec (c.setWidth 8) := by
  decide +kernel

/-- The region has `R` bytes (R552). -/
@[simp] theorem frameRegion_length (type gid sid : Byte) (p : List Byte) :
    (frameRegion type gid sid p).length = 3 + 2 * p.length + 4 := by
  simp [frameRegion]; omega

/-- A built frame has exactly `F` bytes (R554). -/
theorem frameBuild_length (cfg : Config) (type gid sid : Byte) (p : List Byte)
    (hv : cfg.valid = true) (hp : p.length = cfg.L) :
    (frameBuild cfg type gid sid p).1.length = cfg.F := by
  have h := Config.frame_fits hv
  simp only [frameBuild, List.length_append, scramble_length, frameRegion_length, be32_length,
    zeros_length, Config.padLen, Config.R, Config.P] at *
  omega

/-- The scrambler ends `R` bytes past `SEED` (R561). -/
theorem frameBuild_state (cfg : Config) (type gid sid : Byte) (p : List Byte) (hp : p.length = cfg.L) :
    (frameBuild cfg type gid sid p).2 = scrAdvance^[cfg.R] cfg.seed := by
  simp [frameBuild, scramble_state, hp, Config.R]

/-- Building a frame never leaves the scrambler at state 0 (R400). -/
theorem frameBuild_ne_zero (cfg : Config) (type gid sid : Byte) (p : List Byte) (h : cfg.seed ≠ 0) :
    (frameBuild cfg type gid sid p).2 ≠ 0 := scramble_ne_zero _ _ h

/-- The length R565 gives. -/
theorem realign_length (buf : List Byte) (o s : Nat) :
    (realign buf o s).length = buf.length - o - (if s = 0 then 0 else 1) := by
  unfold realign
  split
  · simp
  · split <;> simp <;> omega

/-- A parse ends SHORT exactly when fewer than `4 + R` realigned bytes stand there (R566). -/
theorem frameParse_none_iff (cfg : Config) (buf : List Byte) (o s : Nat) :
    frameParse cfg buf o s = none ↔ (realign buf o s).length < 4 + cfg.R := by
  simp only [frameParse]; split <;> simp [*]

/-- What a parse that is not SHORT gives (R566). -/
theorem frameParse_some {cfg : Config} {buf : List Byte} {o s : Nat} {p : Parsed}
    (h : frameParse cfg buf o s = some p) :
    4 + cfg.R ≤ (realign buf o s).length ∧
      p = parseRegion cfg (scramble (((realign buf o s).drop 4).take cfg.R) cfg.seed).1
        (scramble (((realign buf o s).drop 4).take cfg.R) cfg.seed).2 := by
  simp only [frameParse] at h
  split at h
  · cases h
  · exact ⟨by omega, by simpa using h.symm⟩

/-- A parsed payload has `L` bytes. -/
theorem frameParse_payload_length {cfg : Config} {buf : List Byte} {o s : Nat} {p : Parsed}
    (h : frameParse cfg buf o s = some p) : p.payload.length = cfg.L := by
  obtain ⟨hl, rfl⟩ := frameParse_some h
  simp only [parseRegion, fecDec_length, List.length_take, List.length_drop, scramble_length, Config.R] at *
  omega

/-- The scrambler ends `R` bytes past `SEED`. -/
theorem frameParse_state {cfg : Config} {buf : List Byte} {o s : Nat} {p : Parsed}
    (h : frameParse cfg buf o s = some p) : p.sEnd = scrAdvance^[cfg.R] cfg.seed := by
  obtain ⟨hl, rfl⟩ := frameParse_some h
  simp only [parseRegion, scramble_state, List.length_take, List.length_drop, Config.R] at *
  congr 2
  omega

/-- Parsing a frame never leaves the scrambler at state 0 (R400). -/
theorem frameParse_ne_zero {cfg : Config} {buf : List Byte} {o s : Nat} {p : Parsed}
    (h : frameParse cfg buf o s = some p) (hs : cfg.seed ≠ 0) : p.sEnd ≠ 0 := by
  obtain ⟨-, rfl⟩ := frameParse_some h
  exact scramble_ne_zero _ _ hs

end Sys2Proof.Machine
end

