-- ==== Sys2Proof/Laws/State.lean ====
section
/-! SUPPORT. One lemma per field per update of the state and of the two units, true by rfl, so that no later proof
unfolds a record update. -/

namespace Sys2Proof.Machine

/-! ### The whole state -/

@[simp] theorem State.respond_cfg (s : State) (c : Nat) (o : List Byte) (g : Signal) (r : Word) :
    (s.respond c o g r).cfg = s.cfg := rfl
@[simp] theorem State.respond_enc (s : State) (c : Nat) (o : List Byte) (g : Signal) (r : Word) :
    (s.respond c o g r).enc = s.enc := rfl
@[simp] theorem State.respond_dec (s : State) (c : Nat) (o : List Byte) (g : Signal) (r : Word) :
    (s.respond c o g r).dec = s.dec := rfl
@[simp] theorem State.respond_diagScr (s : State) (c : Nat) (o : List Byte) (g : Signal) (r : Word) :
    (s.respond c o g r).diagScr = s.diagScr := rfl
@[simp] theorem State.respond_inSlice (s : State) (c : Nat) (o : List Byte) (g : Signal) (r : Word) :
    (s.respond c o g r).inSlice = s.inSlice := rfl
@[simp] theorem State.respond_cap (s : State) (c : Nat) (o : List Byte) (g : Signal) (r : Word) :
    (s.respond c o g r).cap = s.cap := rfl
@[simp] theorem State.respond_pending (s : State) (c : Nat) (o : List Byte) (g : Signal) (r : Word) :
    (s.respond c o g r).pending = s.pending := rfl
@[simp] theorem State.respond_response (s : State) (c : Nat) (o : List Byte) (g : Signal) (r : Word) :
    (s.respond c o g r).response = some ⟨c, o, g, r⟩ := rfl

@[simp] theorem State.answerIllegal_cfg (s : State) :
    (s.answerIllegal).cfg = s.cfg := rfl
@[simp] theorem State.answerIllegal_enc (s : State) :
    (s.answerIllegal).enc = s.enc := rfl
@[simp] theorem State.answerIllegal_dec (s : State) :
    (s.answerIllegal).dec = s.dec := rfl
@[simp] theorem State.answerIllegal_diagScr (s : State) :
    (s.answerIllegal).diagScr = s.diagScr := rfl
@[simp] theorem State.answerIllegal_inSlice (s : State) :
    (s.answerIllegal).inSlice = s.inSlice := rfl
@[simp] theorem State.answerIllegal_cap (s : State) :
    (s.answerIllegal).cap = s.cap := rfl
@[simp] theorem State.answerIllegal_pending (s : State) :
    (s.answerIllegal).pending = s.pending := rfl
@[simp] theorem State.answerIllegal_response (s : State) :
    (s.answerIllegal).response = some ⟨0, [], .illegal, 0⟩ := rfl

@[simp] theorem State.answerNotPerformed_cfg (s : State) :
    (s.answerNotPerformed).cfg = s.cfg := rfl
@[simp] theorem State.answerNotPerformed_enc (s : State) :
    (s.answerNotPerformed).enc = s.enc := rfl
@[simp] theorem State.answerNotPerformed_dec (s : State) :
    (s.answerNotPerformed).dec = s.dec := rfl
@[simp] theorem State.answerNotPerformed_diagScr (s : State) :
    (s.answerNotPerformed).diagScr = s.diagScr := rfl
@[simp] theorem State.answerNotPerformed_inSlice (s : State) :
    (s.answerNotPerformed).inSlice = s.inSlice := rfl
@[simp] theorem State.answerNotPerformed_cap (s : State) :
    (s.answerNotPerformed).cap = s.cap := rfl
@[simp] theorem State.answerNotPerformed_pending (s : State) :
    (s.answerNotPerformed).pending = s.pending := rfl
@[simp] theorem State.answerNotPerformed_response (s : State) :
    (s.answerNotPerformed).response = some ⟨0, [], .cont, notPerformedResult⟩ := rfl

@[simp] theorem State.setDiagScr_cfg (s : State) (v : ScrState) :
    (s.setDiagScr v).cfg = s.cfg := rfl
@[simp] theorem State.setDiagScr_enc (s : State) (v : ScrState) :
    (s.setDiagScr v).enc = s.enc := rfl
@[simp] theorem State.setDiagScr_dec (s : State) (v : ScrState) :
    (s.setDiagScr v).dec = s.dec := rfl
@[simp] theorem State.setDiagScr_diagScr (s : State) (v : ScrState) :
    (s.setDiagScr v).diagScr = v := rfl
@[simp] theorem State.setDiagScr_inSlice (s : State) (v : ScrState) :
    (s.setDiagScr v).inSlice = s.inSlice := rfl
@[simp] theorem State.setDiagScr_cap (s : State) (v : ScrState) :
    (s.setDiagScr v).cap = s.cap := rfl
@[simp] theorem State.setDiagScr_pending (s : State) (v : ScrState) :
    (s.setDiagScr v).pending = s.pending := rfl
@[simp] theorem State.setDiagScr_response (s : State) (v : ScrState) :
    (s.setDiagScr v).response = s.response := rfl

@[simp] theorem State.commitEnc_cfg (s : State) (p : EncUnit × Response) :
    (s.commitEnc p).cfg = s.cfg := rfl
@[simp] theorem State.commitEnc_enc (s : State) (p : EncUnit × Response) :
    (s.commitEnc p).enc = p.1 := rfl
@[simp] theorem State.commitEnc_dec (s : State) (p : EncUnit × Response) :
    (s.commitEnc p).dec = s.dec := rfl
@[simp] theorem State.commitEnc_diagScr (s : State) (p : EncUnit × Response) :
    (s.commitEnc p).diagScr = s.diagScr := rfl
@[simp] theorem State.commitEnc_inSlice (s : State) (p : EncUnit × Response) :
    (s.commitEnc p).inSlice = s.inSlice := rfl
@[simp] theorem State.commitEnc_cap (s : State) (p : EncUnit × Response) :
    (s.commitEnc p).cap = s.cap := rfl
@[simp] theorem State.commitEnc_pending (s : State) (p : EncUnit × Response) :
    (s.commitEnc p).pending = s.pending := rfl
@[simp] theorem State.commitEnc_response (s : State) (p : EncUnit × Response) :
    (s.commitEnc p).response = some p.2 := rfl

@[simp] theorem State.commitDec_cfg (s : State) (p : DecUnit × Response) :
    (s.commitDec p).cfg = s.cfg := rfl
@[simp] theorem State.commitDec_enc (s : State) (p : DecUnit × Response) :
    (s.commitDec p).enc = s.enc := rfl
@[simp] theorem State.commitDec_dec (s : State) (p : DecUnit × Response) :
    (s.commitDec p).dec = p.1 := rfl
@[simp] theorem State.commitDec_diagScr (s : State) (p : DecUnit × Response) :
    (s.commitDec p).diagScr = s.diagScr := rfl
@[simp] theorem State.commitDec_inSlice (s : State) (p : DecUnit × Response) :
    (s.commitDec p).inSlice = s.inSlice := rfl
@[simp] theorem State.commitDec_cap (s : State) (p : DecUnit × Response) :
    (s.commitDec p).cap = s.cap := rfl
@[simp] theorem State.commitDec_pending (s : State) (p : DecUnit × Response) :
    (s.commitDec p).pending = s.pending := rfl
@[simp] theorem State.commitDec_response (s : State) (p : DecUnit × Response) :
    (s.commitDec p).response = some p.2 := rfl

@[simp] theorem State.present_cfg (s : State) (c : Command) (rest : List HostEvent) :
    (s.present c rest).cfg = s.cfg := rfl
@[simp] theorem State.present_enc (s : State) (c : Command) (rest : List HostEvent) :
    (s.present c rest).enc = s.enc := rfl
@[simp] theorem State.present_dec (s : State) (c : Command) (rest : List HostEvent) :
    (s.present c rest).dec = s.dec := rfl
@[simp] theorem State.present_diagScr (s : State) (c : Command) (rest : List HostEvent) :
    (s.present c rest).diagScr = s.diagScr := rfl
@[simp] theorem State.present_inSlice (s : State) (c : Command) (rest : List HostEvent) :
    (s.present c rest).inSlice = c.inSlice := rfl
@[simp] theorem State.present_cap (s : State) (c : Command) (rest : List HostEvent) :
    (s.present c rest).cap = c.cap := rfl
@[simp] theorem State.present_pending (s : State) (c : Command) (rest : List HostEvent) :
    (s.present c rest).pending = rest := rfl
@[simp] theorem State.present_response (s : State) (c : Command) (rest : List HostEvent) :
    (s.present c rest).response = s.response := rfl

@[simp] theorem powerOn_cfg (cfg : Config) (p : List HostEvent) :
    (powerOn cfg p).cfg = cfg := rfl
@[simp] theorem powerOn_enc (cfg : Config) (p : List HostEvent) :
    (powerOn cfg p).enc = encResetUnit cfg := rfl
@[simp] theorem powerOn_dec (cfg : Config) (p : List HostEvent) :
    (powerOn cfg p).dec = decResetUnit cfg := rfl
@[simp] theorem powerOn_diagScr (cfg : Config) (p : List HostEvent) :
    (powerOn cfg p).diagScr = cfg.seed := rfl
@[simp] theorem powerOn_inSlice (cfg : Config) (p : List HostEvent) :
    (powerOn cfg p).inSlice = [] := rfl
@[simp] theorem powerOn_cap (cfg : Config) (p : List HostEvent) :
    (powerOn cfg p).cap = 0 := rfl
@[simp] theorem powerOn_pending (cfg : Config) (p : List HostEvent) :
    (powerOn cfg p).pending = p := rfl
@[simp] theorem powerOn_response (cfg : Config) (p : List HostEvent) :
    (powerOn cfg p).response = none := rfl

@[simp] theorem State.n_eq (s : State) : s.n = s.inSlice.length := rfl
@[simp] theorem State.m_eq (s : State) : s.m = s.cap := rfl
@[simp] theorem State.inTake_eq (s : State) (k : Nat) : s.inTake k = s.inSlice.take k := rfl
@[simp] theorem State.answerStatus_some (s : State) (v : Word) :
    s.answerStatus (some v) = s.respond 0 [] .cont v := rfl
@[simp] theorem State.answerStatus_none (s : State) : s.answerStatus none = s.answerIllegal := rfl

/-- The reset state is the power-on state of the reference configuration with nothing presented
(70_reset_and_hazards.md R951). -/
theorem reset_eq_powerOn : State.reset = powerOn Config.reference [] := by decide

/-! ### The encoder unit -/

@[simp] theorem encArrive_state (S : EncState) (e : EncUnit) :
    (encArrive S e).state = S := rfl
@[simp] theorem encArrive_phaseCnt (S : EncState) (e : EncUnit) :
    (encArrive S e).phaseCnt = 0 := rfl
@[simp] theorem encArrive_groupId (S : EncState) (e : EncUnit) :
    (encArrive S e).groupId = e.groupId := rfl
@[simp] theorem encArrive_slotCnt (S : EncState) (e : EncUnit) :
    (encArrive S e).slotCnt = e.slotCnt := rfl
@[simp] theorem encArrive_parityAcc (S : EncState) (e : EncUnit) :
    (encArrive S e).parityAcc = e.parityAcc := rfl
@[simp] theorem encArrive_stage (S : EncState) (e : EncUnit) :
    (encArrive S e).stage = e.stage := rfl
@[simp] theorem encArrive_stageCnt (S : EncState) (e : EncUnit) :
    (encArrive S e).stageCnt = e.stageCnt := rfl
@[simp] theorem encArrive_scr (S : EncState) (e : EncUnit) :
    (encArrive S e).scr = e.scr := rfl
@[simp] theorem encArrive_cntTraining (S : EncState) (e : EncUnit) :
    (encArrive S e).cntTraining = e.cntTraining := rfl
@[simp] theorem encArrive_cntStart (S : EncState) (e : EncUnit) :
    (encArrive S e).cntStart = e.cntStart := rfl
@[simp] theorem encArrive_cntData (S : EncState) (e : EncUnit) :
    (encArrive S e).cntData = e.cntData := rfl
@[simp] theorem encArrive_cntParity (S : EncState) (e : EncUnit) :
    (encArrive S e).cntParity = e.cntParity := rfl
@[simp] theorem encArrive_cntEnd (S : EncState) (e : EncUnit) :
    (encArrive S e).cntEnd = e.cntEnd := rfl

@[simp] theorem encEnterData_state (cfg : Config) (e : EncUnit) :
    (encEnterData cfg e).state = .data := rfl
@[simp] theorem encEnterData_phaseCnt (cfg : Config) (e : EncUnit) :
    (encEnterData cfg e).phaseCnt = 0 := rfl
@[simp] theorem encEnterData_groupId (cfg : Config) (e : EncUnit) :
    (encEnterData cfg e).groupId = 1 := rfl
@[simp] theorem encEnterData_slotCnt (cfg : Config) (e : EncUnit) :
    (encEnterData cfg e).slotCnt = 0 := rfl
@[simp] theorem encEnterData_parityAcc (cfg : Config) (e : EncUnit) :
    (encEnterData cfg e).parityAcc = zeros cfg.L := rfl
@[simp] theorem encEnterData_stage (cfg : Config) (e : EncUnit) :
    (encEnterData cfg e).stage = e.stage := rfl
@[simp] theorem encEnterData_stageCnt (cfg : Config) (e : EncUnit) :
    (encEnterData cfg e).stageCnt = 0 := rfl
@[simp] theorem encEnterData_scr (cfg : Config) (e : EncUnit) :
    (encEnterData cfg e).scr = e.scr := rfl
@[simp] theorem encEnterData_cntTraining (cfg : Config) (e : EncUnit) :
    (encEnterData cfg e).cntTraining = e.cntTraining := rfl
@[simp] theorem encEnterData_cntStart (cfg : Config) (e : EncUnit) :
    (encEnterData cfg e).cntStart = e.cntStart := rfl
@[simp] theorem encEnterData_cntData (cfg : Config) (e : EncUnit) :
    (encEnterData cfg e).cntData = e.cntData := rfl
@[simp] theorem encEnterData_cntParity (cfg : Config) (e : EncUnit) :
    (encEnterData cfg e).cntParity = e.cntParity := rfl
@[simp] theorem encEnterData_cntEnd (cfg : Config) (e : EncUnit) :
    (encEnterData cfg e).cntEnd = e.cntEnd := rfl

@[simp] theorem encStage_state (cfg : Config) (e : EncUnit) (inp : List Byte) :
    (encStage cfg e inp).state = e.state := rfl
@[simp] theorem encStage_phaseCnt (cfg : Config) (e : EncUnit) (inp : List Byte) :
    (encStage cfg e inp).phaseCnt = e.phaseCnt := rfl
@[simp] theorem encStage_groupId (cfg : Config) (e : EncUnit) (inp : List Byte) :
    (encStage cfg e inp).groupId = e.groupId := rfl
@[simp] theorem encStage_slotCnt (cfg : Config) (e : EncUnit) (inp : List Byte) :
    (encStage cfg e inp).slotCnt = e.slotCnt := rfl
@[simp] theorem encStage_parityAcc (cfg : Config) (e : EncUnit) (inp : List Byte) :
    (encStage cfg e inp).parityAcc = e.parityAcc := rfl
@[simp] theorem encStage_stage (cfg : Config) (e : EncUnit) (inp : List Byte) :
    (encStage cfg e inp).stage = e.stage.take e.stageCnt ++ inp.take (encTaken cfg e inp) ++
      e.stage.drop (e.stageCnt + encTaken cfg e inp) := rfl
@[simp] theorem encStage_stageCnt (cfg : Config) (e : EncUnit) (inp : List Byte) :
    (encStage cfg e inp).stageCnt = e.stageCnt + encTaken cfg e inp := rfl
@[simp] theorem encStage_scr (cfg : Config) (e : EncUnit) (inp : List Byte) :
    (encStage cfg e inp).scr = e.scr := rfl
@[simp] theorem encStage_cntTraining (cfg : Config) (e : EncUnit) (inp : List Byte) :
    (encStage cfg e inp).cntTraining = e.cntTraining := rfl
@[simp] theorem encStage_cntStart (cfg : Config) (e : EncUnit) (inp : List Byte) :
    (encStage cfg e inp).cntStart = e.cntStart := rfl
@[simp] theorem encStage_cntData (cfg : Config) (e : EncUnit) (inp : List Byte) :
    (encStage cfg e inp).cntData = e.cntData := rfl
@[simp] theorem encStage_cntParity (cfg : Config) (e : EncUnit) (inp : List Byte) :
    (encStage cfg e inp).cntParity = e.cntParity := rfl
@[simp] theorem encStage_cntEnd (cfg : Config) (e : EncUnit) (inp : List Byte) :
    (encStage cfg e inp).cntEnd = e.cntEnd := rfl

/-! ### The decoder unit -/

@[simp] theorem decNoGroup_state (d : DecUnit) :
    (decNoGroup d).state = d.state := rfl
@[simp] theorem decNoGroup_curGroupValid (d : DecUnit) :
    (decNoGroup d).curGroupValid = false := rfl
@[simp] theorem decNoGroup_curGroup (d : DecUnit) :
    (decNoGroup d).curGroup = 0 := rfl
@[simp] theorem decNoGroup_slot (d : DecUnit) :
    (decNoGroup d).slot = d.slot := rfl
@[simp] theorem decNoGroup_present (d : DecUnit) :
    (decNoGroup d).present = d.present := rfl
@[simp] theorem decNoGroup_rx (d : DecUnit) :
    (decNoGroup d).rx = d.rx := rfl
@[simp] theorem decNoGroup_scr (d : DecUnit) :
    (decNoGroup d).scr = d.scr := rfl
@[simp] theorem decNoGroup_cntTraining (d : DecUnit) :
    (decNoGroup d).cntTraining = d.cntTraining := rfl
@[simp] theorem decNoGroup_cntStart (d : DecUnit) :
    (decNoGroup d).cntStart = d.cntStart := rfl
@[simp] theorem decNoGroup_cntData (d : DecUnit) :
    (decNoGroup d).cntData = d.cntData := rfl
@[simp] theorem decNoGroup_cntParity (d : DecUnit) :
    (decNoGroup d).cntParity = d.cntParity := rfl
@[simp] theorem decNoGroup_cntEnd (d : DecUnit) :
    (decNoGroup d).cntEnd = d.cntEnd := rfl
@[simp] theorem decNoGroup_cntRecovered (d : DecUnit) :
    (decNoGroup d).cntRecovered = d.cntRecovered := rfl
@[simp] theorem decNoGroup_cntCrcFail (d : DecUnit) :
    (decNoGroup d).cntCrcFail = d.cntCrcFail := rfl

@[simp] theorem decDiscard_state (k : Nat) (d : DecUnit) :
    (decDiscard k d).state = d.state := rfl
@[simp] theorem decDiscard_curGroupValid (k : Nat) (d : DecUnit) :
    (decDiscard k d).curGroupValid = d.curGroupValid := rfl
@[simp] theorem decDiscard_curGroup (k : Nat) (d : DecUnit) :
    (decDiscard k d).curGroup = d.curGroup := rfl
@[simp] theorem decDiscard_slot (k : Nat) (d : DecUnit) :
    (decDiscard k d).slot = d.slot := rfl
@[simp] theorem decDiscard_present (k : Nat) (d : DecUnit) :
    (decDiscard k d).present = d.present := rfl
@[simp] theorem decDiscard_rx (k : Nat) (d : DecUnit) :
    (decDiscard k d).rx = d.rx.drop k := rfl
@[simp] theorem decDiscard_scr (k : Nat) (d : DecUnit) :
    (decDiscard k d).scr = d.scr := rfl
@[simp] theorem decDiscard_cntTraining (k : Nat) (d : DecUnit) :
    (decDiscard k d).cntTraining = d.cntTraining := rfl
@[simp] theorem decDiscard_cntStart (k : Nat) (d : DecUnit) :
    (decDiscard k d).cntStart = d.cntStart := rfl
@[simp] theorem decDiscard_cntData (k : Nat) (d : DecUnit) :
    (decDiscard k d).cntData = d.cntData := rfl
@[simp] theorem decDiscard_cntParity (k : Nat) (d : DecUnit) :
    (decDiscard k d).cntParity = d.cntParity := rfl
@[simp] theorem decDiscard_cntEnd (k : Nat) (d : DecUnit) :
    (decDiscard k d).cntEnd = d.cntEnd := rfl
@[simp] theorem decDiscard_cntRecovered (k : Nat) (d : DecUnit) :
    (decDiscard k d).cntRecovered = d.cntRecovered := rfl
@[simp] theorem decDiscard_cntCrcFail (k : Nat) (d : DecUnit) :
    (decDiscard k d).cntCrcFail = d.cntCrcFail := rfl

@[simp] theorem decAccept_state (cfg : Config) (d : DecUnit) (inp : List Byte) :
    (decAccept cfg d inp).state = d.state := rfl
@[simp] theorem decAccept_curGroupValid (cfg : Config) (d : DecUnit) (inp : List Byte) :
    (decAccept cfg d inp).curGroupValid = d.curGroupValid := rfl
@[simp] theorem decAccept_curGroup (cfg : Config) (d : DecUnit) (inp : List Byte) :
    (decAccept cfg d inp).curGroup = d.curGroup := rfl
@[simp] theorem decAccept_slot (cfg : Config) (d : DecUnit) (inp : List Byte) :
    (decAccept cfg d inp).slot = d.slot := rfl
@[simp] theorem decAccept_present (cfg : Config) (d : DecUnit) (inp : List Byte) :
    (decAccept cfg d inp).present = d.present := rfl
@[simp] theorem decAccept_rx (cfg : Config) (d : DecUnit) (inp : List Byte) :
    (decAccept cfg d inp).rx = d.rx ++ inp.take (decTaken cfg d inp) := rfl
@[simp] theorem decAccept_scr (cfg : Config) (d : DecUnit) (inp : List Byte) :
    (decAccept cfg d inp).scr = d.scr := rfl
@[simp] theorem decAccept_cntTraining (cfg : Config) (d : DecUnit) (inp : List Byte) :
    (decAccept cfg d inp).cntTraining = d.cntTraining := rfl
@[simp] theorem decAccept_cntStart (cfg : Config) (d : DecUnit) (inp : List Byte) :
    (decAccept cfg d inp).cntStart = d.cntStart := rfl
@[simp] theorem decAccept_cntData (cfg : Config) (d : DecUnit) (inp : List Byte) :
    (decAccept cfg d inp).cntData = d.cntData := rfl
@[simp] theorem decAccept_cntParity (cfg : Config) (d : DecUnit) (inp : List Byte) :
    (decAccept cfg d inp).cntParity = d.cntParity := rfl
@[simp] theorem decAccept_cntEnd (cfg : Config) (d : DecUnit) (inp : List Byte) :
    (decAccept cfg d inp).cntEnd = d.cntEnd := rfl
@[simp] theorem decAccept_cntRecovered (cfg : Config) (d : DecUnit) (inp : List Byte) :
    (decAccept cfg d inp).cntRecovered = d.cntRecovered := rfl
@[simp] theorem decAccept_cntCrcFail (cfg : Config) (d : DecUnit) (inp : List Byte) :
    (decAccept cfg d inp).cntCrcFail = d.cntCrcFail := rfl

@[simp] theorem groupClear_state (cfg : Config) (d : DecUnit) :
    (groupClear cfg d).state = d.state := rfl
@[simp] theorem groupClear_curGroupValid (cfg : Config) (d : DecUnit) :
    (groupClear cfg d).curGroupValid = d.curGroupValid := rfl
@[simp] theorem groupClear_curGroup (cfg : Config) (d : DecUnit) :
    (groupClear cfg d).curGroup = d.curGroup := rfl
@[simp] theorem groupClear_slot (cfg : Config) (d : DecUnit) :
    (groupClear cfg d).slot = d.slot := rfl
@[simp] theorem groupClear_present (cfg : Config) (d : DecUnit) :
    (groupClear cfg d).present = List.replicate (cfg.G + 1) false := rfl
@[simp] theorem groupClear_rx (cfg : Config) (d : DecUnit) :
    (groupClear cfg d).rx = d.rx := rfl
@[simp] theorem groupClear_scr (cfg : Config) (d : DecUnit) :
    (groupClear cfg d).scr = d.scr := rfl
@[simp] theorem groupClear_cntTraining (cfg : Config) (d : DecUnit) :
    (groupClear cfg d).cntTraining = d.cntTraining := rfl
@[simp] theorem groupClear_cntStart (cfg : Config) (d : DecUnit) :
    (groupClear cfg d).cntStart = d.cntStart := rfl
@[simp] theorem groupClear_cntData (cfg : Config) (d : DecUnit) :
    (groupClear cfg d).cntData = d.cntData := rfl
@[simp] theorem groupClear_cntParity (cfg : Config) (d : DecUnit) :
    (groupClear cfg d).cntParity = d.cntParity := rfl
@[simp] theorem groupClear_cntEnd (cfg : Config) (d : DecUnit) :
    (groupClear cfg d).cntEnd = d.cntEnd := rfl
@[simp] theorem groupClear_cntRecovered (cfg : Config) (d : DecUnit) :
    (groupClear cfg d).cntRecovered = d.cntRecovered := rfl
@[simp] theorem groupClear_cntCrcFail (cfg : Config) (d : DecUnit) :
    (groupClear cfg d).cntCrcFail = d.cntCrcFail := rfl

@[simp] theorem recoverSlot_state (cfg : Config) (d : DecUnit) :
    (recoverSlot cfg d).state = d.state := rfl
@[simp] theorem recoverSlot_curGroupValid (cfg : Config) (d : DecUnit) :
    (recoverSlot cfg d).curGroupValid = d.curGroupValid := rfl
@[simp] theorem recoverSlot_curGroup (cfg : Config) (d : DecUnit) :
    (recoverSlot cfg d).curGroup = d.curGroup := rfl
@[simp] theorem recoverSlot_slot (cfg : Config) (d : DecUnit) :
    (recoverSlot cfg d).slot = d.slot.set (missingSlot cfg d) (rebuiltSlot cfg d) := rfl
@[simp] theorem recoverSlot_present (cfg : Config) (d : DecUnit) :
    (recoverSlot cfg d).present = d.present := rfl
@[simp] theorem recoverSlot_rx (cfg : Config) (d : DecUnit) :
    (recoverSlot cfg d).rx = d.rx := rfl
@[simp] theorem recoverSlot_scr (cfg : Config) (d : DecUnit) :
    (recoverSlot cfg d).scr = d.scr := rfl
@[simp] theorem recoverSlot_cntTraining (cfg : Config) (d : DecUnit) :
    (recoverSlot cfg d).cntTraining = d.cntTraining := rfl
@[simp] theorem recoverSlot_cntStart (cfg : Config) (d : DecUnit) :
    (recoverSlot cfg d).cntStart = d.cntStart := rfl
@[simp] theorem recoverSlot_cntData (cfg : Config) (d : DecUnit) :
    (recoverSlot cfg d).cntData = d.cntData := rfl
@[simp] theorem recoverSlot_cntParity (cfg : Config) (d : DecUnit) :
    (recoverSlot cfg d).cntParity = d.cntParity := rfl
@[simp] theorem recoverSlot_cntEnd (cfg : Config) (d : DecUnit) :
    (recoverSlot cfg d).cntEnd = d.cntEnd := rfl
@[simp] theorem recoverSlot_cntRecovered (cfg : Config) (d : DecUnit) :
    (recoverSlot cfg d).cntRecovered = d.cntRecovered + 1 := rfl
@[simp] theorem recoverSlot_cntCrcFail (cfg : Config) (d : DecUnit) :
    (recoverSlot cfg d).cntCrcFail = d.cntCrcFail := rfl

end Sys2Proof.Machine
end

