-- ==== Sys2Proof/Laws/Erasure.lean ====
section
/-! SUPPORT. What the operations on the group buffer do (45_erasure_group.md R655 to R662), said once. -/

namespace Sys2Proof.Machine

/-- Every slot of the buffer has `L` bytes. -/
def DecUnit.slotsSized (cfg : Config) (d : DecUnit) : Prop := ∀ p ∈ d.slot, p.length = cfg.L

/-- The data slots that are present are among the `G` data slots. -/
theorem presentData_length_le (cfg : Config) (d : DecUnit) : (presentData cfg d).length ≤ cfg.G := by
  simpa [presentData] using List.length_filter_le d.has (List.range cfg.G)

theorem mem_presentData (cfg : Config) (d : DecUnit) (i : Nat) :
    i ∈ presentData cfg d ↔ i < cfg.G ∧ d.has i = true := by
  simp [presentData]

/-- A slot that stands in the buffer has `L` bytes. -/
theorem slotAt_length {cfg : Config} {d : DecUnit} (h : d.slotsSized cfg) {i : Nat}
    (hi : i < d.slot.length) : (d.slotAt i).length = cfg.L := by
  unfold DecUnit.slotAt
  rw [List.getD_eq_getElem?_getD, List.getElem?_eq_getElem hi, Option.getD_some]
  exact h _ (List.getElem_mem hi)

/-- The concatenation of `k` slots of `L` bytes has `k*L` bytes. -/
theorem slotBytes_length {cfg : Config} {d : DecUnit} (h : d.slotsSized cfg) (is : List Nat)
    (hi : ∀ i ∈ is, i < d.slot.length) : (slotBytes d is).length = is.length * cfg.L := by
  induction is with
  | nil => simp [slotBytes]
  | cons i is ih =>
    have h1 := slotAt_length h (hi i (by simp))
    have h2 := ih (fun j hj => hi j (by simp [hj]))
    simp only [slotBytes, List.map_cons, List.flatten_cons, List.length_append, List.length_cons] at *
    rw [h1, h2]; ring

/-- XORing slots of `L` bytes into one of `L` bytes keeps the length. -/
theorem foldl_xorSlots_length {cfg : Config} {d : DecUnit} (h : d.slotsSized cfg) (is : List Nat)
    (hi : ∀ i ∈ is, i < d.slot.length) (r : List Byte) (hr : r.length = cfg.L) :
    (is.foldl (fun r i => xorBytes r (d.slotAt i)) r).length = cfg.L := by
  induction is generalizing r with
  | nil => exact hr
  | cons i is ih =>
    refine ih (fun j hj => hi j (by simp [hj])) _ ?_
    rw [xorBytes_length, hr, slotAt_length h (hi i (by simp)), Nat.min_self]

/-- The rebuilt slot has `L` bytes. -/
theorem rebuiltSlot_length {cfg : Config} {d : DecUnit} (h : d.slotsSized cfg)
    (hl : d.slot.length = cfg.G + 1) : (rebuiltSlot cfg d).length = cfg.L :=
  foldl_xorSlots_length h _ (fun i hi => by have := (mem_presentData cfg d i).1 hi; omega) _
    (slotAt_length h (by omega))

/-- Rebuilding keeps every slot at `L` bytes. -/
theorem recoverSlot_sized {cfg : Config} {d : DecUnit} (h : d.slotsSized cfg)
    (hl : d.slot.length = cfg.G + 1) : (recoverSlot cfg d).slotsSized cfg := by
  intro p hp
  rcases List.mem_or_eq_of_mem_set hp with h1 | rfl
  · exact h p h1
  · exact rebuiltSlot_length h hl

/-- The three cases of a flush (R660). -/
theorem groupFlush_cases (cfg : Config) (d : DecUnit) :
    ((presentData cfg d).length = cfg.G ∧
      groupFlush cfg d = (groupClear cfg d, slotBytes d (List.range cfg.G))) ∨
    ((presentData cfg d).length ≠ cfg.G ∧ (presentData cfg d).length = cfg.G - 1 ∧ d.has cfg.G = true ∧
      groupFlush cfg d =
        (groupClear cfg (recoverSlot cfg d), slotBytes (recoverSlot cfg d) (List.range cfg.G))) ∨
    ((presentData cfg d).length ≠ cfg.G ∧
      ¬ ((presentData cfg d).length = cfg.G - 1 ∧ d.has cfg.G = true) ∧
      groupFlush cfg d = (groupClear cfg d, slotBytes d (presentData cfg d))) := by
  unfold groupFlush
  split
  · exact .inl ⟨‹_›, rfl⟩
  · split
    · rename_i h1 h2; exact .inr (.inl ⟨h1, h2.1, h2.2, rfl⟩)
    · rename_i h1 h2; exact .inr (.inr ⟨h1, h2, rfl⟩)

/-- What a flush leaves: an empty buffer, slots of the same number and size, and every other register but the
recovery counter as it was (R660, R662). -/
theorem groupFlush_frame (cfg : Config) (d : DecUnit) :
    ∃ sl n, (groupFlush cfg d).1 =
        { d with slot := sl, present := List.replicate (cfg.G + 1) false, cntRecovered := n } ∧
      sl.length = d.slot.length ∧
      (d.slotsSized cfg → d.slot.length = cfg.G + 1 → ∀ p ∈ sl, p.length = cfg.L) := by
  rcases groupFlush_cases cfg d with ⟨-, h⟩ | ⟨-, -, -, h⟩ | ⟨-, -, h⟩ <;> rw [h]
  · exact ⟨d.slot, d.cntRecovered, rfl, rfl, fun h _ => h⟩
  · exact ⟨_, _, rfl, by simp, fun h hl => recoverSlot_sized h hl⟩
  · exact ⟨d.slot, d.cntRecovered, rfl, rfl, fun h _ => h⟩

/-- A flush gives at most `G*L` bytes (R661). -/
theorem groupFlush_length_le {cfg : Config} {d : DecUnit} (h : d.slotsSized cfg)
    (hl : d.slot.length = cfg.G + 1) : (groupFlush cfg d).2.length ≤ cfg.G * cfg.L := by
  rcases groupFlush_cases cfg d with ⟨-, e⟩ | ⟨-, -, -, e⟩ | ⟨-, -, e⟩ <;> rw [e]
  · rw [slotBytes_length h _ (by simp; omega)]; simp
  · rw [slotBytes_length (recoverSlot_sized h hl) _ (by simp [recoverSlot]; omega)]; simp
  · rw [slotBytes_length h _ (fun i hi => by have := (mem_presentData cfg d i).1 hi; omega)]
    exact Nat.mul_le_mul_right _ (presentData_length_le cfg d)

/-- Filing a payload of `L` bytes keeps the number and the sizes of the slots, and every register outside the buffer
(R656). -/
theorem groupStore_frame (cfg : Config) (sid : Byte) (payload : List Byte) (d : DecUnit) :
    ∃ sl pr, groupStore cfg sid payload d = { d with slot := sl, present := pr } ∧
      sl.length = d.slot.length ∧ pr.length = d.present.length ∧
      (payload.length = cfg.L → d.slotsSized cfg → ∀ p ∈ sl, p.length = cfg.L) := by
  unfold groupStore
  split
  · refine ⟨_, _, rfl, by simp, by simp, fun hp h q hq => ?_⟩
    rcases List.mem_or_eq_of_mem_set hq with h1 | rfl
    · exact h q h1
    · exact hp
  · exact ⟨d.slot, d.present, rfl, rfl, rfl, fun _ h => h⟩

end Sys2Proof.Machine
end

