-- ==== Sys2Proof/Laws/Sync.lean ====
section
/-! SUPPORT. What the soft synchronization search answers (44_sync_search.md R602), said once. -/

namespace Sys2Proof.Machine

/-- A bit position is searched exactly when 32 bits follow it (R602). -/
theorem mem_syncPositions (buf : List Byte) (b : Nat) :
    b ∈ syncPositions buf ↔ b + 32 ≤ 8 * buf.length := by
  unfold syncPositions
  split <;> simp <;> omega

/-- `syncSearch` finds nothing exactly when no position qualifies. -/
theorem syncSearch_none_iff (cfg : Config) (buf : List Byte) :
    syncSearch cfg buf = none ↔ ∀ b, b + 32 ≤ 8 * buf.length → syncHit cfg buf b = false := by
  simp only [syncSearch]
  split
  · rename_i b hb
    have h1 := List.find?_some hb
    have h2 := (mem_syncPositions buf b).1 (List.mem_of_find?_eq_some hb)
    simp only [reduceCtorEq, false_iff, not_forall]
    exact ⟨b, h2, by simp [h1]⟩
  · rename_i hb
    simp only [true_iff]
    intro b h
    have := List.find?_eq_none.1 hb b ((mem_syncPositions buf b).2 h)
    simpa using this

/-- What the search finds is the first qualifying position, as byte offset and bit shift. -/
theorem syncSearch_some_iff (cfg : Config) (buf : List Byte) (o s : Nat) :
    syncSearch cfg buf = some (o, s) ↔
      s < 8 ∧ 8 * o + s + 32 ≤ 8 * buf.length ∧ syncHit cfg buf (8 * o + s) = true ∧
        ∀ b, b < 8 * o + s → syncHit cfg buf b = false := by
  have hrange : ∀ b, (syncPositions buf).find? (syncHit cfg buf) = some b ↔
      b + 32 ≤ 8 * buf.length ∧ syncHit cfg buf b = true ∧ ∀ a, a < b → syncHit cfg buf a = false := by
    intro b
    unfold syncPositions
    split
    · simp; omega
    · rw [List.find?_range_eq_some]
      simp only [List.mem_range, Bool.not_eq_eq_eq_not, Bool.not_true]
      constructor
      · rintro ⟨h1, h2, h3⟩; exact ⟨by omega, h1, h3⟩
      · rintro ⟨h1, h2, h3⟩; exact ⟨h2, by omega, h3⟩
  simp only [syncSearch]
  split
  · rename_i b hb
    obtain ⟨h1, h2, h3⟩ := (hrange b).1 hb
    simp only [Option.some.injEq, Prod.mk.injEq]
    constructor
    · rintro ⟨rfl, rfl⟩
      have e : 8 * (b / 8) + b % 8 = b := Nat.div_add_mod b 8
      rw [e]
      exact ⟨Nat.mod_lt _ (by omega), h1, h2, h3⟩
    · rintro ⟨g0, g1, g2, g3⟩
      have : b = 8 * o + s := by
        rcases Nat.lt_trichotomy b (8 * o + s) with h | h | h
        · rw [g3 b h] at h2; cases h2
        · exact h
        · rw [h3 _ h] at g2; cases g2
      subst this
      exact ⟨by omega, by omega⟩
  · rename_i hb
    simp only [reduceCtorEq, false_iff]
    rintro ⟨g0, g1, g2, g3⟩
    have := (hrange (8 * o + s)).2 ⟨g1, g2, g3⟩
    rw [hb] at this; cases this

/-- A match lies inside the buffer. -/
theorem syncSearch_bounds {cfg : Config} {buf : List Byte} {o s : Nat}
    (h : syncSearch cfg buf = some (o, s)) : s < 8 ∧ 8 * o + s + 32 ≤ 8 * buf.length :=
  ⟨((syncSearch_some_iff cfg buf o s).1 h).1, ((syncSearch_some_iff cfg buf o s).1 h).2.1⟩

/-! ### The search reads the bit stream (R600, R601) -/

/-- `popBits` counts the one bits among the low `k`. -/
theorem popBits_eq (k v : Nat) : popBits k v = (List.range k).countP (fun i => v.testBit i) := by
  induction k generalizing v with
  | zero => rfl
  | succ k ih =>
    rw [popBits, ih, List.range_succ_eq_map, List.countP_cons, List.countP_map]
    have : (fun i => v.testBit i) ∘ Nat.succ = fun i => (v / 2).testBit i := by
      funext i; simp [Nat.testBit_succ]
    rw [this]
    rcases Nat.mod_two_eq_zero_or_one v with h | h <;> simp [h]; omega

/-- Counting from the other end. -/
theorem countP_range_reverse (p : Nat → Bool) (n : Nat) :
    (List.range n).countP (fun i => p (n - 1 - i)) = (List.range n).countP p := by
  have h : (List.range n).map (fun i => n - 1 - i) = (List.range n).reverse :=
    List.ext_getElem (by simp) (by simp)
  calc (List.range n).countP (fun i => p (n - 1 - i))
      = ((List.range n).map (fun i => n - 1 - i)).countP p := by rw [List.countP_map]; rfl
    _ = (List.range n).countP p := by rw [h, List.countP_reverse]

/-- Bit `j` of the five bytes from `o` on. -/
theorem fiveBytes_getLsbD (buf : List Byte) (o j : Nat) (hj : j < 40) :
    (fiveBytes buf o).getLsbD j = (buf.getD (o + (39 - j) / 8) 0).getLsbD (j % 8) := by
  obtain ⟨i, r, hr, rfl⟩ : ∃ i r, r < 8 ∧ j = 8 * i + r :=
    ⟨j / 8, j % 8, Nat.mod_lt _ (by omega), (Nat.div_add_mod j 8).symm⟩
  have e2 : (8 * i + r) % 8 = r := by omega
  have e1 : (39 - (8 * i + r)) / 8 = 4 - i := by omega
  rw [e1, e2]
  obtain rfl | rfl | rfl | rfl | rfl : i = 0 ∨ i = 1 ∨ i = 2 ∨ i = 3 ∨ i = 4 := by omega
  all_goals
    simp only [fiveBytes, BitVec.getLsbD_or, BitVec.getLsbD_shiftLeft, BitVec.getLsbD_setWidth]
    simp (disch := omega) [show r < 16 by omega, show r < 24 by omega, show r < 32 by omega,
      show r < 40 by omega, show ¬ 8 ≤ r by omega, show 8 + r < 16 by omega, show 8 + r < 24 by omega,
      show 8 + r < 32 by omega, show 8 + r < 40 by omega, show 16 + r < 24 by omega,
      show 16 + r < 32 by omega, show 16 + r < 40 by omega, show 24 + r < 32 by omega,
      show 24 + r < 40 by omega, show 32 + r < 40 by omega]

/-- Bit `31 - i` of the window is the stream's bit `b + i` (R601). -/
theorem window32_getLsbD (buf : List Byte) (b i : Nat) (hi : i < 32) :
    (window32 buf b).getLsbD (31 - i) = bitAt buf (b + i) := by
  unfold window32 bitAt
  rw [BitVec.getLsbD_extractLsb', fiveBytes_getLsbD _ _ _ (by omega)]
  simp only [show 31 - i < 32 by omega, decide_true, Bool.true_and]
  congr 2 <;> omega

/-- A position qualifies exactly when at most `T` of its 32 bits differ from `SYNC` (R602). -/
theorem syncHit_iff (cfg : Config) (buf : List Byte) (b : Nat) :
    syncHit cfg buf b = true ↔ syncDistance cfg buf b ≤ cfg.T := by
  have h : popcount (window32 buf b ^^^ cfg.sync) = syncDistance cfg buf b := by
    unfold syncDistance popcount
    rw [popBits_eq, ← countP_range_reverse]
    refine List.countP_congr fun i hi => ?_
    rw [← window32_getLsbD buf b i (by simpa using hi)]
    change (BitVec.getLsbD (window32 buf b ^^^ cfg.sync) (32 - 1 - i)) = true ↔ _
    rw [BitVec.getLsbD_xor]
  rw [syncHit, h, decide_eq_true_eq]

/-- A position does not qualify exactly when more than `T` of its bits differ. -/
theorem syncHit_false_iff (cfg : Config) (buf : List Byte) (b : Nat) :
    syncHit cfg buf b = false ↔ cfg.T < syncDistance cfg buf b := by
  rw [← Bool.not_eq_true, syncHit_iff, Nat.not_le]

end Sys2Proof.Machine
end

