-- ==== Sys2Proof/Laws/Decoder.lean ====
section
/-! SUPPORT. What the decoder unit's operations do (47_decoder_fsm.md R801 to R816), said once. -/

namespace Sys2Proof.Machine

/-- Every way a feed step ends (R801, R802, R816, R821). -/
theorem decFeed_cases (cfg : Config) (d : DecUnit) (inp : List Byte) (m : Nat) :
    (d.state = .finished ∧ decFeed cfg d inp m = (d, ⟨inp.length, [], .done, 0⟩)) ∨
    (d.state ≠ .finished ∧ m < cfg.decMaxOut ∧
      decFeed cfg d inp m = (decAccept cfg d inp, ⟨decTaken cfg d inp, [], .cont, 0⟩)) ∨
    (d.state ≠ .finished ∧ cfg.decMaxOut ≤ m ∧
      decFeed cfg d inp m = ((decAttempt cfg (decAccept cfg d inp)).1,
        ⟨decTaken cfg d inp, (decAttempt cfg (decAccept cfg d inp)).2, .cont, 0⟩)) := by
  unfold decFeed
  by_cases h1 : d.state = .finished
  · simp [h1]
  · by_cases h2 : m < cfg.decMaxOut
    · simp [h1, h2]
    · simp [h1, h2]; omega

/-- Every way an attempt ends (R803 to R809). -/
theorem decAttempt_cases (cfg : Config) (d : DecUnit) :
    (syncSearch cfg d.rx = none ∧ decAttempt cfg d = (decDiscard (d.rx.length - 4) d, [])) ∨
    (∃ o s, syncSearch cfg d.rx = some (o, s) ∧
      ((frameParse cfg d.rx o s = none ∧ decAttempt cfg d = (decDiscard o d, [])) ∨
       ∃ p, frameParse cfg d.rx o s = some p ∧
        ((p.crcOk = false ∧ decAttempt cfg d =
            ({ d with rx := d.rx.drop (o + 1), scr := p.sEnd, cntCrcFail := d.cntCrcFail + 1 }, [])) ∨
         (p.crcOk = true ∧ decAttempt cfg d =
            decDispatch cfg p { d with rx := d.rx.drop (o + 4 + cfg.R), scr := p.sEnd })))) := by
  unfold decAttempt
  rcases h : syncSearch cfg d.rx with _ | ⟨o, s⟩
  · exact .inl ⟨rfl, rfl⟩
  · refine .inr ⟨o, s, rfl, ?_⟩
    rcases h2 : frameParse cfg d.rx o s with _ | p
    · exact .inl ⟨rfl, by simp only [h2]⟩
    · refine .inr ⟨p, rfl, ?_⟩
      cases h3 : p.crcOk
      · exact .inl ⟨rfl, by simp [h2, decParsed, h3, decDiscard]⟩
      · exact .inr ⟨rfl, by simp [h2, decParsed, h3, decDiscard]⟩

/-- The type codes and nothing else name a frame type (R320, R321). -/
theorem ofCode_cases (b : Byte) :
    (b = 0x01 ∧ FrameType.ofCode b = some .training) ∨ (b = 0x02 ∧ FrameType.ofCode b = some .start) ∨
    (b = 0x03 ∧ FrameType.ofCode b = some .data) ∨ (b = 0x04 ∧ FrameType.ofCode b = some .parity) ∨
    (b = 0x05 ∧ FrameType.ofCode b = some .endFrame) ∨
    (b ∉ ([0x01, 0x02, 0x03, 0x04, 0x05] : List Byte) ∧ FrameType.ofCode b = none) := by
  revert b; decide +kernel

/-- What filing a payload frame leaves (R814): the group id current, one slot written, and every register outside the
group buffer as it was. -/
theorem decFile_frame (cfg : Config) (p : Parsed) (d : DecUnit) :
    ∃ sl pr n out, decFile cfg p d =
        ({ d with slot := sl, present := pr, cntRecovered := n, curGroup := p.gid, curGroupValid := true }, out) ∧
      sl.length = d.slot.length ∧
      (d.present.length = cfg.G + 1 → pr.length = cfg.G + 1) ∧
      (p.payload.length = cfg.L → d.slotsSized cfg → d.slot.length = cfg.G + 1 →
        ∀ q ∈ sl, q.length = cfg.L) ∧
      (d.slotsSized cfg → d.slot.length = cfg.G + 1 → out.length ≤ cfg.G * cfg.L) := by
  unfold decFile decAdopt
  by_cases h : decChangesGroup d p.gid = true
  · simp only [if_pos h]
    obtain ⟨sl, n, e, hl, hs⟩ := groupFlush_frame cfg d
    obtain ⟨sl2, pr2, e2, hl2, hp2, hs2⟩ := groupStore_frame cfg p.sid p.payload
      { (groupFlush cfg d).1 with curGroup := p.gid, curGroupValid := true }
    refine ⟨sl2, pr2, n, _, by rw [e2, e], by rw [hl2, e]; exact hl, ?_, ?_, ?_⟩
    · intro _; rw [hp2, e]; simp
    · intro h1 h2 h3; exact hs2 h1 (by simpa [DecUnit.slotsSized, e] using hs h2 h3)
    · exact groupFlush_length_le
  · simp only [if_neg h]
    obtain ⟨sl2, pr2, e2, hl2, hp2, hs2⟩ := groupStore_frame cfg p.sid p.payload d
    simp only [decChangesGroup, Bool.or_eq_true, Bool.not_eq_true', bne_iff_ne, not_or, Bool.not_eq_false,
      ne_eq, not_not] at h
    refine ⟨sl2, pr2, d.cntRecovered, [], by rw [e2, ← h.1, ← h.2], hl2, ?_, ?_, ?_⟩
    · intro h1; rw [hp2, h1]
    · intro h1 h2 _; exact hs2 h1 h2
    · intro _ _; simp

end Sys2Proof.Machine
end

