-- ==== Sys2Proof/Laws/Encoder.lean ====
section
/-! SUPPORT. What the encoder unit's operations do (46_encoder_fsm.md R701 to R714), said once. -/

namespace Sys2Proof.Machine

/-- The state a state entry ends in: repeat phases of count 0 are left at once (R701). -/
def encEntered (cfg : Config) (S : EncState) : EncState :=
  match S with
  | .training => if cfg.nTrain = 0 then (if cfg.nStart = 0 then .data else .start) else .training
  | .start => if cfg.nStart = 0 then .data else .start
  | .data => .data
  | .endPhase => if cfg.nEnd = 0 then .finished else .endPhase
  | .finished => .finished

/-- A state entry, whole (R701): into DATA it also starts group 1; into any other state it writes the state and the
phase count alone. -/
theorem encEnter_spec (cfg : Config) (S : EncState) (e : EncUnit) :
    (encEntered cfg S = .data ∧ encEnter cfg S e = encEnterData cfg e) ∨
    (encEntered cfg S ≠ .data ∧ encEnter cfg S e = encArrive (encEntered cfg S) e) := by
  cases S <;>
    simp only [encEntered, encEnter, encEnterTraining, encEnterStart, encEnterEnd, encEnterFinished]
  · by_cases h1 : cfg.nTrain = 0 <;> by_cases h2 : cfg.nStart = 0 <;>
      simp [h1, h2, encArrive, encEnterData]
  · by_cases h2 : cfg.nStart = 0 <;> simp [h2, encArrive, encEnterData]
  · simp
  · by_cases h3 : cfg.nEnd = 0 <;> simp [h3, encArrive]
  · simp

/-- A state entry never goes back in the order of the states (R700). -/
theorem encEntered_code_le (cfg : Config) (S : EncState) :
    S.code.toNat ≤ (encEntered cfg S).code.toNat := by
  cases S <;> simp only [encEntered] <;> (repeat' split) <;> decide

/-- The counter of a type alone changes when a frame is counted (R703). -/
theorem encCount_frame (type : FrameType) (e : EncUnit) :
    ∃ a b c d f, encCount type e =
      { e with cntTraining := a, cntStart := b, cntData := c, cntParity := d, cntEnd := f } := by
  cases type <;> exact ⟨_, _, _, _, _, rfl⟩

/-- What emitting a frame does (R703): the frame, the scrambler register, and one counter. -/
theorem encEmit_frame (cfg : Config) (type : FrameType) (gid sid : Byte) (p : List Byte) (e : EncUnit) :
    (encEmit cfg type gid sid p e).2 = (frameBuild cfg type.code gid sid p).1 ∧
    ∃ a b c d f, (encEmit cfg type gid sid p e).1 =
      { e with scr := (frameBuild cfg type.code gid sid p).2, cntTraining := a, cntStart := b,
               cntData := c, cntParity := d, cntEnd := f } :=
  ⟨rfl, encCount_frame _ _⟩

/-- Every way a feed step ends (R706 to R708, R711 to R714, R721). -/
theorem encFeed_cases (cfg : Config) (e : EncUnit) (inp : List Byte) (m : Nat) :
    (e.state = .finished ∧ encFeed cfg e inp m = (e, ⟨inp.length, [], .done, 0⟩)) ∨
    (e.state ≠ .finished ∧ m < cfg.F ∧ encFeed cfg e inp m = (e, ⟨0, [], .cont, 0⟩)) ∨
    (cfg.F ≤ m ∧ e.state = .training ∧
      encFeed cfg e inp m = encRepeat cfg .training cfg.nTrain .start e) ∨
    (cfg.F ≤ m ∧ e.state = .start ∧ encFeed cfg e inp m = encRepeat cfg .start cfg.nStart .data e) ∨
    (cfg.F ≤ m ∧ e.state = .endPhase ∧
      encFeed cfg e inp m = encRepeat cfg .endFrame cfg.nEnd .finished e) ∨
    (cfg.F ≤ m ∧ e.state = .data ∧ encFeed cfg e inp m = encDataStep cfg e inp) := by
  unfold encFeed
  by_cases h1 : e.state = .finished
  · simp [h1]
  · by_cases h2 : m < cfg.F
    · simp [h1, h2]
    · cases h3 : e.state <;> simp_all

/-- Every way a DATA step ends (R711 to R714). -/
theorem encDataStep_cases (cfg : Config) (e : EncUnit) (inp : List Byte) :
    ((encStage cfg e inp).stageCnt < cfg.L ∧
      encDataStep cfg e inp = (encStage cfg e inp, ⟨encTaken cfg e inp, [], .cont, 0⟩)) ∨
    (cfg.L ≤ (encStage cfg e inp).stageCnt ∧ (encStage cfg e inp).stage.take cfg.L = cfg.eos ∧
      encDataStep cfg e inp = encSentinel cfg (encStage cfg e inp) (encTaken cfg e inp)) ∨
    (cfg.L ≤ (encStage cfg e inp).stageCnt ∧ (encStage cfg e inp).stage.take cfg.L ≠ cfg.eos ∧
      e.slotCnt.toNat = cfg.G ∧
      encDataStep cfg e inp = encFullGroup cfg (encStage cfg e inp) (encTaken cfg e inp)) ∨
    (cfg.L ≤ (encStage cfg e inp).stageCnt ∧ (encStage cfg e inp).stage.take cfg.L ≠ cfg.eos ∧
      e.slotCnt.toNat ≠ cfg.G ∧
      encDataStep cfg e inp = encOrdinary cfg (encStage cfg e inp)
        ((encStage cfg e inp).stage.take cfg.L) (encTaken cfg e inp)) := by
  unfold encDataStep encChunk
  by_cases h1 : (encStage cfg e inp).stageCnt < cfg.L
  · exact .inl ⟨h1, if_pos h1⟩
  · by_cases h2 : (encStage cfg e inp).stage.take cfg.L = cfg.eos
    · exact .inr (.inl ⟨by omega, h2, by simp only [if_neg h1, if_pos h2]⟩)
    · by_cases h3 : e.slotCnt.toNat = cfg.G
      · exact .inr (.inr (.inl ⟨by omega, h2, h3, by
          simp only [if_neg h1, if_neg h2]; exact if_pos h3⟩))
      · exact .inr (.inr (.inr ⟨by omega, h2, h3, by
          simp only [if_neg h1, if_neg h2]; exact if_neg h3⟩))

/-- Staging keeps the stage at `L` bytes (R711). -/
theorem encStage_length {cfg : Config} {e : EncUnit} (inp : List Byte) (h : e.stage.length = cfg.L)
    (hc : e.stageCnt ≤ cfg.L) : (encStage cfg e inp).stage.length = cfg.L := by
  simp only [encStage, encTaken, List.length_append, List.length_take, List.length_drop]
  omega

/-- The bytes a DATA step takes never overfill the stage (R711). -/
theorem encStage_count_le {cfg : Config} {e : EncUnit} (inp : List Byte) (hc : e.stageCnt ≤ cfg.L) :
    (encStage cfg e inp).stageCnt ≤ cfg.L := by
  simp only [encStage, encTaken]; omega

/-- A chunk that the input completes: the staged bytes, then the input's first ones (R711). -/
theorem encStage_chunk {cfg : Config} {e : EncUnit} {inp : List Byte} (h : e.stage.length = cfg.L)
    (hc : e.stageCnt ≤ cfg.L) (hk : cfg.L - e.stageCnt ≤ inp.length) :
    encTaken cfg e inp = cfg.L - e.stageCnt ∧
    encStage cfg e inp =
      { e with stage := e.stage.take e.stageCnt ++ inp.take (cfg.L - e.stageCnt), stageCnt := cfg.L } := by
  have hk2 : encTaken cfg e inp = cfg.L - e.stageCnt := by simp only [encTaken]; omega
  refine ⟨hk2, ?_⟩
  have hd : e.stage.drop cfg.L = [] := by rw [List.drop_eq_nil_iff]; omega
  have hn : e.stageCnt + (cfg.L - e.stageCnt) = cfg.L := by omega
  simp only [encStage, hk2, hn, hd, List.append_nil]

end Sys2Proof.Machine
end

