-- ==== Sys2Proof/Laws/PerInstr.lean ====
section
/-! SUPPORT. The family `WordShape` of statements made once per command: the word the encoder writes carries the
row's opcode in bits 7:0 and zero in every reserved bit (30_encoding.md R301 to R304). -/

namespace Sys2Proof.Laws

/-- The opcode of a command, column OP of R304. -/
def opcodeOf : Instr → BitVec 8
  | .nop => 0x00
  | .scrReset => 0x01
  | .scrNext => 0x02
  | .scrProcess _ => 0x03
  | .hamEnc _ => 0x04
  | .hamDec _ => 0x05
  | .crc32 => 0x06
  | .frameBuild _ _ _ => 0x07
  | .frameParse _ _ => 0x08
  | .syncSearch => 0x09
  | .encReset => 0x10
  | .encFeed => 0x11
  | .encStat _ => 0x12
  | .decReset => 0x20
  | .decFeed => 0x21
  | .decStat _ => 0x22

/-- The encoder writes the row's opcode and leaves every reserved bit zero. -/
def WordShape.Statement (i : Instr) : Prop :=
  fieldOp (encode i) = opcodeOf i ∧ reservedClear i (encode i) = true

/-- The low field of a packed word is its opcode. -/
theorem fieldOp_packWord (op a8 b2 b3 : BitVec 8) : fieldOp (packWord op a8 b2 b3) = op := by
  ext k hk
  simp [fieldOp, packWord, BitVec.getElem_extractLsb', show k < 16 by omega, show k < 24 by omega,
    show k < 32 by omega, hk]

/-- The low field of a packed word is its opcode, in the reading with a 16-bit argument. -/
theorem fieldOp_packWord16 (op a8 : BitVec 8) (a16 : BitVec 16) :
    fieldOp (packWord16 op a8 a16) = op := by
  ext k hk
  simp [fieldOp, packWord16, BitVec.getElem_extractLsb', show k < 16 by omega, show k < 32 by omega, hk]

/-- A word writes no reserved bit of a command when its bits outside the used ones are zero. -/
theorem reservedClear_iff (i : Instr) (w : Word) :
    reservedClear i w = true ↔ w &&& ~~~ i.usedBits = 0 := decide_eq_true_iff

theorem WordShape.nop : WordShape.Statement .nop := by
  constructor <;> decide
theorem WordShape.scrReset : WordShape.Statement .scrReset := by
  constructor <;> decide
theorem WordShape.scrNext : WordShape.Statement .scrNext := by
  constructor <;> decide
theorem WordShape.scrProcess (rst : Bool) : WordShape.Statement (.scrProcess rst) := by
  cases rst <;> constructor <;> decide
theorem WordShape.hamEnc (nib : BitVec 4) : WordShape.Statement (.hamEnc nib) := by
  refine ⟨by simp only [encode, opcodeOf, fieldOp_packWord], ?_⟩
  rw [reservedClear_iff]
  simp only [encode, Instr.usedBits, packWord]
  ext k hk
  interval_cases k <;> simp
theorem WordShape.hamDec (cw : BitVec 7) : WordShape.Statement (.hamDec cw) := by
  refine ⟨by simp only [encode, opcodeOf, fieldOp_packWord], ?_⟩
  rw [reservedClear_iff]
  simp only [encode, Instr.usedBits, packWord]
  ext k hk
  interval_cases k <;> simp
theorem WordShape.crc32 : WordShape.Statement .crc32 := by
  constructor <;> decide
theorem WordShape.frameBuild (type gid sid : BitVec 8) :
    WordShape.Statement (.frameBuild type gid sid) :=
  ⟨fieldOp_packWord _ _ _ _, by simp [reservedClear, Instr.usedBits]⟩
theorem WordShape.frameParse (s : BitVec 3) (o : BitVec 16) :
    WordShape.Statement (.frameParse s o) := by
  refine ⟨by simp only [encode, opcodeOf, fieldOp_packWord16], ?_⟩
  rw [reservedClear_iff]
  simp only [encode, Instr.usedBits, packWord16]
  ext k hk
  interval_cases k <;> simp
theorem WordShape.syncSearch : WordShape.Statement .syncSearch := by
  constructor <;> decide
theorem WordShape.encReset : WordShape.Statement .encReset := by
  constructor <;> decide
theorem WordShape.encFeed : WordShape.Statement .encFeed := by
  constructor <;> decide
theorem WordShape.encStat (idx : BitVec 8) : WordShape.Statement (.encStat idx) := by
  refine ⟨by simp only [encode, opcodeOf, fieldOp_packWord], ?_⟩
  rw [reservedClear_iff]
  simp only [encode, Instr.usedBits, packWord]
  ext k hk
  interval_cases k <;> simp
theorem WordShape.decReset : WordShape.Statement .decReset := by
  constructor <;> decide
theorem WordShape.decFeed : WordShape.Statement .decFeed := by
  constructor <;> decide
theorem WordShape.decStat (idx : BitVec 8) : WordShape.Statement (.decStat idx) := by
  refine ⟨by simp only [encode, opcodeOf, fieldOp_packWord], ?_⟩
  rw [reservedClear_iff]
  simp only [encode, Instr.usedBits, packWord]
  ext k hk
  interval_cases k <;> simp

end Sys2Proof.Laws
end

