-- ==== Sys2Proof/Laws/Step.lean ====
section
/-! SUPPORT. Every way a step ends (log entries 2 to 8, 22), said once. -/

namespace Sys2Proof.Machine

/-- What the next event comes to. -/
theorem fetch_cases (s : State) :
    (s.cfg.valid = false ∧ fetch s = .refuse .badConfiguration) ∨
    (s.cfg.valid = true ∧ s.pending = [] ∧ fetch s = .ended s) ∨
    (∃ rest, s.cfg.valid = true ∧ s.pending = .powerOnReset :: rest ∧
      fetch s = .ended (powerOn s.cfg rest)) ∨
    (∃ c rest, s.cfg.valid = true ∧ s.pending = .command c :: rest ∧ fetch s = issue s c rest) := by
  unfold fetch
  cases hv : s.cfg.valid
  · simp
  · cases hp : s.pending with
    | nil => simp
    | cons ev rest => cases ev <;> simp

/-- What a presented command comes to. -/
theorem issue_cases (s : State) (c : Command) (rest : List HostEvent) :
    (∃ r, decode c.word = .error r ∧ issue s c rest = .ended (s.present c rest).answerIllegal) ∨
    (∃ i r, decode c.word = .ok i ∧ contractBreach s.cfg c i = some r ∧ issue s c rest = .refuse r) ∨
    (∃ i, decode c.word = .ok i ∧ contractBreach s.cfg c i = none ∧
      issue s c rest = .run i (s.present c rest)) := by
  unfold issue
  rcases h : decode c.word with r | i
  · exact .inl ⟨r, rfl, rfl⟩
  · rcases h2 : contractBreach s.cfg c i with _ | r
    · exact .inr (.inr ⟨i, rfl, h2, by simp [h2]⟩)
    · exact .inr (.inl ⟨i, r, rfl, h2, by simp [h2]⟩)

/-- The contract is kept exactly when the command's unit is free and its slice within the host's bound. -/
theorem contractBreach_none_iff (cfg : Config) (c : Command) (i : Instr) :
    contractBreach cfg c i = none ↔
      (∀ u, unitOf i = some u → u ∉ c.busy) ∧ c.inSlice.length ≤ cfg.maxSlice := by
  unfold contractBreach
  rcases h : unitOf i with _ | u <;> simp only
  · split <;> simp <;> omega
  · by_cases hb : u ∈ c.busy
    · simp [hb]
    · simp only [List.contains_iff_mem, hb, if_false, Option.some.injEq]
      split <;> simp [hb] <;> omega

/-- Every way a step that gives a next state got there. -/
theorem step_next {s t : State} (h : step s = .next t) :
    (s.pending = [] ∧ t = s) ∨
    (∃ rest, s.pending = .powerOnReset :: rest ∧ t = powerOn s.cfg rest) ∨
    (∃ c rest r, s.pending = .command c :: rest ∧ decode c.word = .error r ∧
      t = (s.present c rest).answerIllegal) ∨
    (∃ c rest i, s.pending = .command c :: rest ∧ decode c.word = .ok i ∧
      exec i (s.present c rest) = .next t) := by
  unfold step at h
  rcases fetch_cases s with ⟨-, e⟩ | ⟨-, hp, e⟩ | ⟨rest, -, hp, e⟩ | ⟨c, rest, -, hp, e⟩ <;> rw [e] at h
  · cases h
  · cases h; exact .inl ⟨hp, rfl⟩
  · cases h; exact .inr (.inl ⟨rest, hp, rfl⟩)
  · rcases issue_cases s c rest with ⟨r, hd, e2⟩ | ⟨i, r, hd, -, e2⟩ | ⟨i, hd, -, e2⟩ <;> rw [e2] at h
    · cases h; exact .inr (.inr (.inl ⟨c, rest, r, hp, hd, rfl⟩))
    · cases h
    · exact .inr (.inr (.inr ⟨c, rest, i, hp, hd, h⟩))

end Sys2Proof.Machine
end

