-- ==== Sys2Proof/Tests/Slice0.lean ====
section
/-! SUPPORT. The model's own tests: an ill-formed term for each check, the words of the spec, one-command tests with
the expected answers of spec/95_test_vectors.md, and for each statement with hypotheses a state that meets them. -/

namespace Sys2Proof.Tests

open Sys2Proof.Machine

set_option Elab.async false

/-! ### Helpers -/

/-- The next state of an outcome, none where the machine stops. -/
def nextOf : Result → Option State
  | .next t => some t
  | .fault _ => none
  | .refused _ => none

/-- The refusal of an outcome. -/
def refusalOf : Result → Option Refusal
  | .next _ => none
  | .fault _ => none
  | .refused r => some r

/-- `s` with one command presented, no unit busy. -/
def given (s : State) (w : Word) (inp : List Byte) (cap : Nat) : State :=
  { s with pending := [.command ⟨w, inp, cap, []⟩] }

/-- The state after that command. -/
def after (s : State) (w : Word) (inp : List Byte) (cap : Nat) : Option State :=
  nextOf (step (given s w inp cap))

/-- The response to that command. -/
def answer (s : State) (w : Word) (inp : List Byte) (cap : Nat) : Option Response :=
  (after s w inp cap).bind State.response

/-- `A` of 95_test_vectors.md. -/
def chunkA : List Byte := [0x00, 0xAA, 0x55, 0, 0, 0, 0, 0, 0, 0]

/-- A 48-byte frame of the reference configuration with this 28-byte tail. -/
def refFrame (tail : List Byte) : List Byte :=
  List.replicate 16 0xAA ++ [0x1A, 0xCF, 0xFC, 0x1D] ++ tail

/-- FRAME(D(1,0,A)). -/
def frameD10A : List Byte := refFrame
  [0xFD, 0x3A, 0x14, 0xBE, 0xA8, 0x0E, 0x9B, 0x7C, 0x4A, 0xDA, 0xE8, 0xC8, 0x81, 0x26, 0x9E, 0xE1,
   0xFC, 0x76, 0x29, 0x7D, 0x50, 0xB7, 0x9C, 0x23, 0x07, 0x28, 0x77, 0x00]

/-- FRAME(TR). -/
def frameTR : List Byte := refFrame
  [0xFF, 0x3B, 0x14, 0xBE, 0xA8, 0x5B, 0xCE, 0x56, 0x60, 0xDA, 0xE8, 0xC8, 0x81, 0x26, 0x9E, 0xE1,
   0xFC, 0x76, 0x29, 0x7D, 0x50, 0xB7, 0x9C, 0x4F, 0x4B, 0xDD, 0xA7, 0x00]

/-- A small configuration for the witnesses: `P = 1`, `L = 1`, `G = 2`, `R = 9`, `F = 15`, one padding byte. -/
def tiny : Config where
  preamble := [0xAA]
  sync := 0x1ACFFC1D
  seed := 0x7F
  L := 1
  G := 2
  T := 2
  F := 15
  nTrain := 1
  nStart := 2
  nEnd := 1
  eos := [0xFF]
  rxcap := 20
  maxSlice := 24

/-- The block after power-on reset at the small configuration. -/
def tiny0 : State := powerOn tiny []

/-- A frame of the small configuration with a one-byte payload. -/
def tinyFrame (type gid sid payload : Byte) : List Byte := (frameBuild tiny type gid sid [payload]).1

/-- What parsing that frame gives; nine scrambled bytes leave the scrambler at 0x5B. -/
def tinyParsed (type gid sid payload : Byte) : Parsed := ⟨type, gid, sid, [payload], true, 0x5B⟩

/-! ### WellFormed: each check refuses a term -/

theorem test_reference_is_valid : Config.reference.valid = true := by decide
theorem test_tiny_is_valid : tiny.valid = true := by decide
theorem test_zero_payload_refused : { tiny with L := 0, eos := [] }.valid = false := by decide
theorem test_zero_group_refused : { tiny with G := 0 }.valid = false := by decide
theorem test_group_256_refused : { tiny with G := 256 }.valid = false := by decide
theorem test_tolerance_33_refused : { tiny with T := 33 }.valid = false := by decide
theorem test_zero_seed_refused : { tiny with seed := 0 }.valid = false := by decide
theorem test_short_frame_refused : { tiny with F := 13 }.valid = false := by decide
theorem test_small_window_refused : { tiny with rxcap := 13 }.valid = false := by decide
theorem test_long_sentinel_refused : { tiny with eos := [0xFF, 0xFF] }.valid = false := by decide
theorem test_huge_slice_bound_refused : { tiny with maxSlice := 2 ^ 28 }.valid = false := by decide
theorem test_unlisted_enc_index : (Instr.encStat 6).legal = false ∧ (Instr.encStat 13).legal = false := by decide
theorem test_unlisted_dec_index : (Instr.decStat 4).legal = false ∧ (Instr.decStat 15).legal = false := by decide
theorem test_reserved_bit_set : reservedClear (.hamEnc 0xA) 0x00001A04 = false := by decide

/-! ### Decode: words written out from 30_encoding.md R301, R302, R304, R313 -/

theorem test_decode_nop : decode 0xFFFFFF00 = .ok .nop := by decide
theorem test_decode_scrReset : decode 0x00000001 = .ok .scrReset := by decide
theorem test_decode_scrNext : decode 0x00000002 = .ok .scrNext := by decide
theorem test_decode_scrProcess : decode 0x0000FE03 = .ok (.scrProcess false) := by decide
theorem test_decode_hamEnc : decode 0x0000FA04 = .ok (.hamEnc 0xA) := by decide
theorem test_decode_hamDec : decode 0x0000D705 = .ok (.hamDec 0x57) := by decide
theorem test_decode_crc32 : decode 0x00000006 = .ok .crc32 := by decide
theorem test_decode_frameBuild : decode 0x04010407 = .ok (.frameBuild 4 1 4) := by decide
theorem test_decode_frameParse : decode 0x00020508 = .ok (.frameParse 5 2) := by decide
theorem test_decode_syncSearch : decode 0x00000009 = .ok .syncSearch := by decide
theorem test_decode_encReset : decode 0x00000010 = .ok .encReset := by decide
theorem test_decode_encFeed : decode 0x00000011 = .ok .encFeed := by decide
theorem test_decode_encStat : decode 0x00000A12 = .ok (.encStat 10) := by decide
theorem test_decode_decReset : decode 0x00000020 = .ok .decReset := by decide
theorem test_decode_decFeed : decode 0x00000021 = .ok .decFeed := by decide
theorem test_decode_decStat : decode 0x00000522 = .ok (.decStat 5) := by decide
theorem test_decode_undefined : decode 0x000000FF = .error (.undefinedOpcode 0xFF) := by decide
theorem test_decodeTableWord : decodeTableWord 32 0x00080308 = some (.frameParse 3 8) := by decide
theorem test_withFetchWord_runs_first :
    ((nextOf (step (State.reset.withFetchWord 16 0x5605))).bind State.response).map Response.result =
      some 0x8 := by decide +kernel

/-! ### One command each, from spec/95_test_vectors.md (the vector's name in brackets) -/

/-- [N1]. -/
theorem test_nop : answer State.reset 0x00000000 [1, 2] 5 = some ⟨0, [], .cont, 0⟩ := by decide +kernel
/-- [K1]. -/
theorem test_scrReset :
    (after { State.reset with diagScr := 0x15 } 0x1 [] 0).map State.diagScr = some 0x7F := by
  decide +kernel
/-- [K2], the second command. -/
theorem test_scrNext :
    (after { State.reset with diagScr := 0x5C } 0x2 [] 0).map (fun t => (t.diagScr, t.response)) =
      some (0x28, some ⟨0, [], .cont, 0x3B⟩) := by decide +kernel
/-- [K6]: only `m` bytes are processed. -/
theorem test_scrProcess_reset :
    answer { State.reset with diagScr := 0x15 } 0x103 [0x00, 0xAA, 0x55, 0xFF] 2 =
      some ⟨2, [0xFE, 0x91], .cont, 0x28⟩ := by decide +kernel
/-- [K4]: the keystream goes on. -/
theorem test_scrProcess_continues :
    answer { State.reset with diagScr := 0x15 } 0x3 [0, 0] 2 =
      some ⟨2, [0xA8, 0x5B], .cont, 0x73⟩ := by decide +kernel
/-- [H4]. -/
theorem test_hamEnc : answer State.reset 0xFA04 [] 0 = some ⟨0, [], .cont, 0x55⟩ := by decide +kernel
/-- [H7]. -/
theorem test_hamDec_corrects : answer State.reset 0xD705 [] 0 = some ⟨0, [], .cont, 0xA⟩ := by
  decide +kernel
/-- [H8]. -/
theorem test_hamDec_two_flips : answer State.reset 0x5605 [] 0 = some ⟨0, [], .cont, 0x8⟩ := by
  decide +kernel
/-- [R3]. -/
theorem test_crc32 : answer State.reset 0x6 [0x41] 0 = some ⟨1, [], .cont, 0xD3D99E8B⟩ := by
  decide +kernel
/-- [FB4]. -/
theorem test_frameBuild :
    answer State.reset 0x00010307 (chunkA ++ [0x77, 0x88]) 48 = some ⟨10, frameD10A, .cont, 0⟩ := by
  decide +kernel
/-- [FB2]. -/
theorem test_frameBuild_not_performed :
    answer State.reset 0x00010307 chunkA 47 = some ⟨0, [], .cont, 0xFFFFFFFF⟩ := by decide +kernel
/-- [FP2]: two bytes, five one bits, then the frame from its sync word on. -/
theorem test_frameParse_shifted :
    answer State.reset 0x00020508
      [0x12, 0x34, 0xF8, 0xD6, 0x7F, 0xE0, 0xEF, 0xE9, 0xD0, 0xA5, 0xF5, 0x40, 0x74, 0xDB, 0xE2, 0x56,
       0xD7, 0x46, 0x44, 0x09, 0x34, 0xF7, 0x0F, 0xE3, 0xB1, 0x4B, 0xEA, 0x85, 0xBC, 0xE1, 0x18, 0x39,
       0x43, 0xB8, 0x00] 10 =
      some ⟨35, chunkA, .cont, 0x01000103⟩ := by decide +kernel
/-- [FP4]. -/
theorem test_frameParse_short :
    answer State.reset 0x00100008 (frameD10A.take 46) 10 = some ⟨46, [], .cont, 0x02000000⟩ := by
  decide +kernel
/-- [Y2]: distance 2 still qualifies. -/
theorem test_syncSearch_tolerance :
    answer State.reset 0x9 (zeros 8 ++ [0x9A, 0xCF, 0xFC, 0x1C] ++ zeros 8) 0 =
      some ⟨20, [], .cont, 0x80000040⟩ := by decide +kernel
/-- [Y9]: bit position 1. -/
theorem test_syncSearch_bit_position :
    answer State.reset 0x9 [0x0D, 0x67, 0xFE, 0x0E, 0x80] 0 = some ⟨5, [], .cont, 0x80000001⟩ := by
  decide +kernel
/-- [E4], its set-up: with all counts 0 the reset ends in DATA with group 1. -/
theorem test_encReset :
    (after (powerOn { Config.reference with nTrain := 0, nStart := 0, nEnd := 0 } []) 0x10 [] 0).map
      (fun t => (t.enc.state, t.enc.groupId)) = some (.data, 1) := by decide +kernel
/-- [E1], call 1. -/
theorem test_encFeed_training :
    (after State.reset 0x11 chunkA 48).map (fun t => (t.enc.phaseCnt, t.response)) =
      some (1, some ⟨0, frameTR, .cont, 0⟩) := by decide +kernel
/-- [E7]: the six bytes that complete the staged chunk give its DATA frame. -/
theorem test_encFeed_data :
    (let s := powerOn { Config.reference with nTrain := 0, nStart := 0, nEnd := 1 } []
     (after { s with enc := { s.enc with stage := [0x00, 0xAA, 0x55, 0, 0, 0, 0, 0, 0, 0], stageCnt := 4 } }
        0x11 (zeros 6) 48).map (fun t => (t.enc.slotCnt, t.enc.stageCnt, t.response))) =
      some (1, 0, some ⟨6, frameD10A, .cont, 0⟩) := by decide +kernel
/-- [E3]. -/
theorem test_encStat :
    answer (powerOn { Config.reference with nTrain := 0, nStart := 0 } []) 0x12 [] 0 =
      some ⟨0, [], .cont, 2⟩ := by decide +kernel
/-- [N5]. -/
theorem test_encStat_unlisted : answer State.reset 0x612 [] 0 = some ⟨0, [], .illegal, 0⟩ := by
  decide +kernel
/-- The example of 47_decoder_fsm.md R820. -/
theorem test_decReset :
    (after { State.reset with dec := { State.reset.dec with state := .finished, rx := [1, 2] } }
      0x20 [] 0).map State.dec = some State.reset.dec := by decide +kernel
/-- [X1]. -/
theorem test_decFeed_training :
    (after State.reset 0x21 frameTR 40).map (fun t => (t.dec.cntTraining, t.dec.rx, t.dec.scr)) =
      some (1, [0], 0x09) := by decide +kernel
/-- [X4]: a short candidate. -/
theorem test_decFeed_short :
    (after State.reset 0x21 (frameD10A.take 30) 40).map (fun t => (t.dec.rx.length, t.response)) =
      some (14, some ⟨30, [], .cont, 0⟩) := by decide +kernel
/-- [N7]. -/
theorem test_decStat : answer State.reset 0x522 [] 0 = some ⟨0, [], .cont, 0x7F⟩ := by decide +kernel
/-- [N6]. -/
theorem test_decStat_unlisted : answer State.reset 0x422 [] 0 = some ⟨0, [], .illegal, 0⟩ := by
  decide +kernel
/-- [N3]. -/
theorem test_undefined_opcode : answer State.reset 0x0A [] 0 = some ⟨0, [], .illegal, 0⟩ := by
  decide +kernel

/-! ### Witnesses: a state and operands that meet a statement's hypotheses together -/

/-- `ReservedBitsAreIgnored`. -/
theorem witness_reserved_bits :
    decode 0x00000A04 = .ok (.hamEnc 0xA) ∧
      (0xFFFFFA04 : Word) &&& (Instr.hamEnc 0xA).usedBits = 0x00000A04 &&& (Instr.hamEnc 0xA).usedBits := by
  decide

/-- `DecodeAndEncodeAgree`, its second part. -/
theorem witness_reserved_clear :
    decode 0xFFFF0708 = .ok (.frameParse 7 0xFFFF) ∧ reservedClear (.frameParse 7 0xFFFF) 0xFFFF0708 = true := by
  decide

/-- A state whose next command goes to a free unit, another being busy, with a slice at the host's bound. -/
def issued : State :=
  { tiny0 with pending := [.command ⟨0x00000006, zeros 24, 0, [.encoder]⟩] }

/-- `StepRunsTheDecodedCommand`. -/
theorem witness_step_runs :
    issued.cfg.valid = true ∧ issued.pending = .command ⟨0x00000006, zeros 24, 0, [.encoder]⟩ :: [] ∧
      decode 0x00000006 = .ok .crc32 ∧ (∀ u, unitOf .crc32 = some u → u ∉ [CmdUnit.encoder]) ∧
      (zeros 24).length ≤ issued.cfg.maxSlice := by
  refine ⟨by decide, rfl, by decide, ?_, by decide⟩
  rintro u h; cases h; decide

/-- `UndefinedOpcodeAnswersIllegal`. -/
theorem witness_undefined_opcode :
    (given tiny0 0x23 [] 0).cfg.valid = true ∧
      (given tiny0 0x23 [] 0).pending = .command ⟨0x23, [], 0, []⟩ :: [] ∧
      (0x23 : Word).extractLsb' 0 8 ∉ ([0x00, 0x01, 0x02, 0x03, 0x04, 0x05, 0x06, 0x07, 0x08, 0x09,
        0x10, 0x11, 0x12, 0x20, 0x21, 0x22] : List (BitVec 8)) := by decide

/-- `HostContractBreachesAreRefused`, a bad configuration. -/
theorem witness_bad_configuration : { tiny0 with cfg := { tiny with G := 0 } }.cfg.valid = false := by decide

/-- `HostContractBreachesAreRefused`, a busy unit. -/
theorem witness_busy_unit :
    tiny0.cfg.valid = true ∧
      { tiny0 with pending := [.command ⟨0x11, [], 0, [.decoder, .encoder]⟩] }.pending =
        .command ⟨0x11, [], 0, [.decoder, .encoder]⟩ :: [] ∧
      decode 0x11 = .ok .encFeed ∧ unitOf .encFeed = some .encoder ∧
      CmdUnit.encoder ∈ [CmdUnit.decoder, CmdUnit.encoder] := by decide

/-- `HostContractBreachesAreRefused`, a slice one byte beyond the bound. -/
theorem witness_long_slice :
    (given tiny0 0x00 (zeros 25) 0).cfg.valid = true ∧
      (given tiny0 0x00 (zeros 25) 0).pending = .command ⟨0x00, zeros 25, 0, []⟩ :: [] ∧
      decode 0x00 = .ok .nop ∧ (∀ u, unitOf .nop = some u → u ∉ ([] : List CmdUnit)) ∧
      tiny0.cfg.maxSlice < (zeros 25).length := by
  refine ⟨by decide, rfl, by decide, ?_, by decide⟩
  rintro u h; cases h

/-- `HostContractBreachesAreRefused`, a slice too long for SYNC.SEARCH. -/
theorem witness_huge_slice : ∃ s : State, 2 ^ 28 ≤ s.inSlice.length := by
  obtain ⟨l, hl⟩ : ∃ l : List Byte, l.length = 2 ^ 28 := ⟨List.replicate _ 0, List.length_replicate⟩
  exact ⟨{ tiny0 with inSlice := l }, Nat.le_of_eq hl.symm⟩

/-- `PowerOnResetsEveryUnit`, with and without repeat phases. -/
theorem witness_power_on :
    { tiny0 with pending := [HostEvent.powerOnReset] }.cfg.valid = true ∧
      { tiny0 with cfg := { tiny with nTrain := 0, nStart := 0 },
                   pending := [HostEvent.powerOnReset] }.cfg.valid = true := by decide

/-- `StepKeepsTheInvariant` and `ResponsesKeepTheirBounds`: the invariant holds in a state that has a command to run,
and the step answers a next state. -/
theorem witness_invariant :
    BlockInv (given tiny0 0x21 [1, 2, 3] 2) ∧ (nextOf (step (given tiny0 0x21 [1, 2, 3] 2))).isSome = true := by
  refine ⟨⟨by decide, ⟨?_, ?_, ?_, ?_, ?_, ?_, ?_, ?_, ?_, ?_, ?_, ?_⟩,
    ⟨?_, ?_, ?_, ?_, ?_, ?_, ?_⟩, ?_⟩, ?_⟩ <;> decide +kernel

/-- `ResponsesKeepTheirBounds`, `CommandsStayInTheirUnit` and `OnlyUnitResetsGoBack`: a command of each unit and NOP
answer a next state. -/
theorem witness_exec_next :
    (nextOf (exec .scrNext tiny0)).isSome = true ∧ (nextOf (exec .encFeed tiny0)).isSome = true ∧
      (nextOf (exec .decReset tiny0)).isSome = true ∧ (nextOf (exec .nop tiny0)).isSome = true := by
  decide +kernel

/-- `CommandsToDifferentUnitsCommute`. -/
theorem witness_commute :
    unitOf .encFeed ≠ unitOf .scrNext ∧
      (nextOf (exec .encFeed { tiny0 with inSlice := [1], cap := 15 })).bind
        (fun t => nextOf (exec .scrNext { t with inSlice := [], cap := 0 })) ≠ none ∧
      (nextOf (exec .scrNext { tiny0 with inSlice := [], cap := 0 })).bind
        (fun t => nextOf (exec .encFeed { t with inSlice := [1], cap := 15 })) ≠ none := by decide +kernel

/-- `AbidingHostIsNeverStopped`. -/
theorem witness_abiding_host : HostAbides (given tiny0 0x09 (zeros 24) 0) := by
  refine ⟨by decide, fun c hc => ?_⟩
  simp only [given, List.mem_cons, HostEvent.command.injEq, List.mem_nil_iff, or_false] at hc
  subst hc; decide

/-- `NopChangesNothing`, `ScrResetLoadsTheSeed`, `Crc32AnswersTheReflectedCrc` and
`SyncSearchAnswersTheFirstPosition`, words with every reserved bit set. -/
theorem witness_low_byte :
    (0xFFFFFF00 : Word).extractLsb' 0 8 = 0x00 ∧ (0xFFFFFF01 : Word).extractLsb' 0 8 = 0x01 ∧
      (0xFFFFFF06 : Word).extractLsb' 0 8 = 0x06 ∧ (0xFFFFFF09 : Word).extractLsb' 0 8 = 0x09 := by decide

/-- `ScrProcessSplitsAnywhere`. -/
theorem witness_split :
    (nextOf (exec (.scrProcess true) { tiny0 with inSlice := [1] ++ [2, 3], cap := 3 })).isSome = true ∧
      (nextOf (exec (.scrProcess true) { tiny0 with inSlice := [1], cap := 1 })).bind
        (fun t => nextOf (exec (.scrProcess false) { t with inSlice := [2, 3], cap := 2 })) ≠ none := by
  decide +kernel

/-- `LfsrHasPeriod127`: the largest count, and two nonzero states. -/
theorem witness_lfsr : (0x40 : ScrState) ≠ 0 ∧ (0x7F : ScrState) ≠ 0 ∧ 0 < 126 ∧ 126 < 127 := by decide

/-- `HammingCorrectsOneBit`: the last bit, a byte with bit 7 set, two flipped bits. -/
theorem witness_hamming :
    6 < 7 ∧ (0xD5 : Byte).setWidth 7 = hamEnc 0xA ∧
      2 ≤ popcount (((0x56 : Byte).setWidth 7 ^^^ hamEnc 0xA).setWidth 32) := by decide +kernel

/-- `FecCorrectsOneBitPerCodeword`: one bit among 6:0, with and without bit 7. -/
theorem witness_fec :
    ([0x40, 0x81] : List Byte).length = 2 * ([0x3C] : List Byte).length ∧
      ∀ e ∈ ([0x40, 0x81] : List Byte), popcount ((e.setWidth 7).setWidth 32) ≤ 1 := by decide +kernel

/-- `CrcCatchesOneChangedByte`. -/
theorem witness_crc : crc32 ([1] ++ [2] ++ [3]) = crc32 ([1] ++ [2] ++ [3]) := rfl

/-- `FrameBuildAnswersTheLayout`, exactly enough input and room. -/
theorem witness_frame_build :
    tiny.valid = true ∧ tiny.L ≤ ([7] : List Byte).length ∧ tiny.F ≤ 15 := by decide

/-- `FrameCommandsWithoutRoomAreNotPerformed`, one byte short each. -/
theorem witness_no_room :
    (([] : List Byte).length < tiny.L ∨ 15 < tiny.F) ∧ (([7] : List Byte).length < tiny.L ∨ 14 < tiny.F) ∧
      0 < tiny.L := by decide

/-- `FrameParseOfShortBuffer`, one byte short with and without a bit shift. -/
theorem witness_parse_short :
    tiny.L ≤ 1 ∧
      (zeros 13).length - (1 : BitVec 16).toNat - (if (0 : BitVec 3) = 0 then 0 else 1) < 4 + tiny.R ∧
      (zeros 14).length - (1 : BitVec 16).toNat - (if (7 : BitVec 3) = 0 then 0 else 1) < 4 + tiny.R := by
  decide

/-- `FrameParseAnswersTheRecord`, just long enough with and without a bit shift. -/
theorem witness_parse :
    tiny.L ≤ 1 ∧
      4 + tiny.R ≤ (zeros 14).length - (1 : BitVec 16).toNat - (if (0 : BitVec 3) = 0 then 0 else 1) ∧
      4 + tiny.R ≤ (zeros 15).length - (1 : BitVec 16).toNat - (if (7 : BitVec 3) = 0 then 0 else 1) := by
  decide

/-- `RealignStartsAtTheBitPosition`, the last bit at the largest shift. -/
theorem witness_realign : 7 < 8 ∧ 15 < 8 * (realign [1, 2, 3, 4] 1 7).length := by decide

/-- `FrameRoundTrip`: the frame's bits three bits into a buffer. -/
theorem witness_round_trip :
    tiny.valid = true ∧ ([0x5A] : List Byte).length = tiny.L ∧ 3 < 8 ∧
      BitsAt (List.zipWith (fun (x y : Byte) => x <<< 5 ||| y >>> 3) ([0] ++ ((tinyFrame 3 1 0 0x5A).drop 1))
          (((tinyFrame 3 1 0 0x5A).drop 1) ++ [0]))
        (8 * 0 + 3) (((frameBuild tiny 3 1 0 [0x5A]).1.drop tiny.P).take (4 + tiny.R)) := by
  unfold BitsAt; decide +kernel

/-- `SyncSearchAnswersTheFirstPosition`, a match in the last position. -/
theorem witness_sync_found :
    ([0x0D, 0x67, 0xFE, 0x0E, 0x80] : List Byte).length < 2 ^ 28 ∧
      1 + 32 ≤ 8 * ([0x0D, 0x67, 0xFE, 0x0E, 0x80] : List Byte).length ∧
      syncDistance tiny [0x0D, 0x67, 0xFE, 0x0E, 0x80] 1 ≤ tiny.T := by decide +kernel

/-- `SyncSearchAnswersTheFirstPosition` and `DecFeedWithoutSyncKeepsFourBytes`: no position of six zero bytes
qualifies. -/
theorem witness_sync_none : ∀ b, b + 32 ≤ 8 * (zeros 6).length → tiny.T < syncDistance tiny (zeros 6) b := by
  have h : ∀ b, b < 17 → tiny.T < syncDistance tiny (zeros 6) b := by decide +kernel
  intro b hb
  exact h b (by simp [zeros] at hb; omega)

/-- `ReferenceFramesSyncAtTheirSyncWord`, the last preamble byte and bit. -/
theorem witness_reference_frame : chunkA.length = 10 ∧ 15 < 16 ∧ 127 < 128 := by decide

/-- `FeedsInFinishedAnswerDone`. -/
theorem witness_finished :
    { tiny0 with enc := { tiny0.enc with state := .finished } }.enc.state = .finished ∧
      { tiny0 with dec := { tiny0.dec with state := .finished } }.dec.state = .finished := by decide

/-- `EncFeedWithoutRoomDoesNothing`, one byte short. -/
theorem witness_enc_no_room : tiny0.enc.state ≠ .finished ∧ { tiny0 with cap := 14 }.cap < tiny.F := by decide

/-- `EncFeedRepeatPhaseEmitsOneFrame`, in each of the three phases, with exactly enough room. -/
theorem witness_repeat_phase :
    tiny.F ≤ { tiny0 with cap := 15 }.cap ∧ tiny0.enc.state = .training ∧
      { tiny0.enc with state := EncState.start }.state = .start ∧
      { tiny0.enc with state := EncState.endPhase }.state = .endPhase := by decide

/-- `EncEnterSkipsEmptyPhases`: START of count 0 ends in DATA. -/
theorem witness_enter :
    EncState.data = (if { tiny with nStart := 0 }.nStart ≠ 0 then EncState.start else .data) := by decide

/-- An encoder in DATA at a configuration of two-byte chunks, one byte staged. -/
def encStaging : State :=
  let s := powerOn { tiny with L := 2, nTrain := 0, nStart := 0, eos := [0xFF, 0xFE], F := 17 } []
  { s with enc := { s.enc with stage := [0xFF, 0], stageCnt := 1 }, cap := 17 }

/-- `EncFeedStagesIncompleteChunks`: an empty slice leaves the stage one byte short. -/
theorem witness_staging :
    encStaging.enc.state = .data ∧ encStaging.cfg.F ≤ encStaging.cap ∧
      encStaging.enc.stageCnt + encStaging.inSlice.length < encStaging.cfg.L := by decide

/-- `EncFeedSentinelEntersEnd`, with an empty group and with one that holds data. -/
theorem witness_sentinel :
    let s := { encStaging with inSlice := [0xFE] }
    s.enc.state = .data ∧ s.cfg.F ≤ s.cap ∧ s.enc.stage.length = s.cfg.L ∧ s.enc.stageCnt ≤ s.cfg.L ∧
      1 = s.cfg.L - s.enc.stageCnt ∧ 1 ≤ s.inSlice.length ∧
      s.enc.stage.take s.enc.stageCnt ++ s.inSlice.take 1 = s.cfg.eos ∧ s.enc.slotCnt = 0 ∧
      { s.enc with slotCnt := 1 }.slotCnt ≠ 0 := by decide

/-- `EncFeedFullGroupEmitsParity`: the group holds `G` chunks. -/
theorem witness_full_group :
    let s := { encStaging with inSlice := [0x01], enc := { encStaging.enc with slotCnt := 2 } }
    s.enc.state = .data ∧ s.cfg.F ≤ s.cap ∧ s.enc.stage.length = s.cfg.L ∧ s.enc.stageCnt ≤ s.cfg.L ∧
      1 = s.cfg.L - s.enc.stageCnt ∧ 1 ≤ s.inSlice.length ∧
      s.enc.stage.take s.enc.stageCnt ++ s.inSlice.take 1 ≠ s.cfg.eos ∧
      s.enc.slotCnt.toNat = s.cfg.G := by decide

/-- `EncFeedOrdinaryChunkEmitsData`: the last slot of the group, the chunk already staged whole. -/
theorem witness_ordinary :
    let s := { encStaging with enc := { encStaging.enc with slotCnt := 1, stageCnt := 2 } }
    s.enc.state = .data ∧ s.cfg.F ≤ s.cap ∧ s.enc.stage.length = s.cfg.L ∧ s.enc.stageCnt ≤ s.cfg.L ∧
      0 = s.cfg.L - s.enc.stageCnt ∧ 0 ≤ s.inSlice.length ∧
      s.enc.stage.take s.enc.stageCnt ++ s.inSlice.take 0 ≠ s.cfg.eos ∧
      s.enc.slotCnt.toNat < s.cfg.G := by decide

/-- `EncParityIsTheXorOfTheGroup`: a group of `G` chunks. -/
theorem witness_parity :
    let e := (powerOn { tiny with nTrain := 0, nStart := 0 } []).enc
    tiny.valid = true ∧ tiny.F ≤ 15 ∧ e.state = .data ∧ e.slotCnt = 0 ∧ e.stageCnt = 0 ∧
      e.parityAcc = zeros tiny.L ∧ e.stage.length = tiny.L ∧ ([[1], [2]] : List (List Byte)).length ≤ tiny.G ∧
      ∀ ch ∈ ([[1], [2]] : List (List Byte)), ch.length = tiny.L ∧ ch ≠ tiny.eos := by decide

/-- `EncStatReadsTheMap` and `DecStatReadsTheMap`: a last listed index, and unlisted ones next to listed ones. -/
theorem witness_status :
    ((12 : BitVec 8), tiny0.enc.cntEnd) ∈ ([(12, tiny0.enc.cntEnd)] : List (BitVec 8 × Word)) ∧
      (13 : BitVec 8) ∉ ([0, 1, 2, 3, 4, 5, 8, 9, 10, 11, 12] : List (BitVec 8)) ∧
      ((14 : BitVec 8), tiny0.dec.cntCrcFail) ∈ ([(14, tiny0.dec.cntCrcFail)] : List (BitVec 8 × Word)) ∧
      (15 : BitVec 8) ∉ ([0, 1, 2, 3, 5, 8, 9, 10, 11, 12, 13, 14] : List (BitVec 8)) := by decide

/-- A decoder unit that holds data slots 0 and 1 and their parity, slot `j` being absent. -/
def groupWithout (j : Nat) : DecUnit :=
  { tiny0.dec with slot := [[5], [6], [3]], present := [true, true, true].set j false }

/-- `GroupFlushRebuildsOneMissingSlot`, the last data slot missing. -/
theorem witness_rebuild :
    let d := groupWithout 1
    ([[5], [6]] : List (List Byte)).length = tiny.G ∧
      (∀ p ∈ ([[5], [6]] : List (List Byte)), p.length = tiny.L) ∧ 1 < tiny.G ∧ d.slot.length = tiny.G + 1 ∧
      (∀ i, i < tiny.G → i ≠ 1 →
        d.slot[i]? = ([[5], [6]] : List (List Byte))[i]? ∧ d.present[i]? = some true) ∧
      d.present[1]? = some false ∧ d.slot[tiny.G]? = some (xorAll tiny.L [[5], [6]]) ∧
      d.present[tiny.G]? = some true := by decide

/-- `GroupFlushWithoutRebuilding`: a complete group, two gaps, one gap without parity. -/
theorem witness_flush :
    (List.range tiny.G).filter (fun i => (groupWithout 2).present[i]? != some true) = [] ∧
      2 ≤ ((List.range tiny.G).filter (fun i => tiny0.dec.present[i]? != some true)).length ∧
      (let d := { groupWithout 2 with present := [false, true, false] }
       (List.range tiny.G).filter (fun i => d.present[i]? != some true) ≠ [] ∧
         d.present[tiny.G]? ≠ some true) := by decide

/-- `DecFeedWithoutRoomOnlyAccepts`, one byte of room too few and a window one byte short of full. -/
theorem witness_dec_no_room :
    let s := { tiny0 with cap := 1, inSlice := [1, 2], dec := { tiny0.dec with rx := zeros 19 } }
    s.dec.state ≠ .finished ∧ s.cap < s.cfg.G * s.cfg.L ∧
      1 = min s.inSlice.length (s.cfg.rxcap - s.dec.rx.length) := by decide

/-- `DecFeedWithoutSyncKeepsFourBytes`: four bytes kept, two new ones, all zero. -/
theorem witness_dec_no_sync :
    let s := { tiny0 with cap := 2, inSlice := zeros 2, dec := { tiny0.dec with rx := zeros 4 } }
    s.dec.state ≠ .finished ∧ s.cfg.G * s.cfg.L ≤ s.cap ∧
      2 = min s.inSlice.length (s.cfg.rxcap - s.dec.rx.length) ∧
      zeros 6 = s.dec.rx ++ s.inSlice.take 2 := by decide

/-- A decoder in a state, with an empty window and this slice, and room for a whole group. -/
def fed (S : DecState) (valid : Bool) (cur : Byte) (inp : List Byte) : State :=
  { tiny0 with
    cap := 2
    inSlice := inp
    dec := { tiny0.dec with state := S, curGroupValid := valid, curGroup := cur } }

/-- The hypotheses the statements about one attempt share, at `s`, with a match at `(o, sh)`. -/
def attempts (s : State) (k o sh : Nat) (win : List Byte) : Prop :=
  s.dec.state ≠ .finished ∧ s.cfg.G * s.cfg.L ≤ s.cap ∧
    k = min s.inSlice.length (s.cfg.rxcap - s.dec.rx.length) ∧ win = s.dec.rx ++ s.inSlice.take k ∧
    syncSearch s.cfg win = some (o, sh)

/-- `DecFeedShortKeepsTheCandidate`, one byte short. -/
theorem witness_dec_short :
    attempts (fed .training false 0 ((tinyFrame 3 1 0 7).take 13)) 13 1 0 ((tinyFrame 3 1 0 7).take 13) ∧
      13 - 1 - (if 0 = 0 then 0 else 1) < 4 + tiny.R := by
  unfold attempts; decide +kernel

/-- `DecFeedCrcMismatchSkipsOneByte`: two flipped bits in one codeword. -/
theorem witness_dec_crc :
    attempts (fed .receiving false 0 ((tinyFrame 3 1 0 7).modify 8 (· ^^^ 3))) 15 1 0
        ((tinyFrame 3 1 0 7).modify 8 (· ^^^ 3)) ∧
      (frameParse tiny ((tinyFrame 3 1 0 7).modify 8 (· ^^^ 3)) 1 0).map Parsed.crcOk = some false := by
  unfold attempts; decide +kernel

/-- `DecFeedTrainingAndIgnoredFrames`: a TRAINING frame, a DATA and a PARITY frame in TRAINING, and type bytes 0x00
and 0x06. -/
theorem witness_dec_training :
    (∀ ty ∈ ([0x01, 0x03, 0x04] : List Byte),
      attempts (fed .training false 0 (tinyFrame ty 1 0 7)) 15 1 0 (tinyFrame ty 1 0 7) ∧
        frameParse tiny (tinyFrame ty 1 0 7) 1 0 = some (tinyParsed ty 1 0 7)) ∧
    ∀ ty ∈ ([0x00, 0x06] : List Byte),
      attempts (fed .receiving true 1 (tinyFrame ty 1 0 7)) 15 1 0 (tinyFrame ty 1 0 7) ∧
        frameParse tiny (tinyFrame ty 1 0 7) 1 0 = some (tinyParsed ty 1 0 7) ∧
        ty ∉ ([0x01, 0x02, 0x03, 0x04, 0x05] : List Byte) := by
  unfold attempts; decide +kernel

/-- `DecFeedStartFrameEntersReceiving` and `DecFeedEndFrameFlushesAndFinishes`, in both states. -/
theorem witness_dec_start_end :
    ∀ ty ∈ ([0x02, 0x05] : List Byte), ∀ S ∈ [DecState.training, DecState.receiving],
      attempts (fed S false 0 (tinyFrame ty 0 0 0)) 15 1 0 (tinyFrame ty 0 0 0) ∧
        frameParse tiny (tinyFrame ty 0 0 0) 1 0 = some (tinyParsed ty 0 0 0) := by
  unfold attempts; decide +kernel

/-- `DecFeedPayloadFramesAreFiled`: a DATA frame of the current group, a PARITY frame of another at the last slot, and
one above it. -/
theorem witness_dec_payload :
    attempts (fed .receiving true 1 (tinyFrame 3 1 0 7)) 15 1 0 (tinyFrame 3 1 0 7) ∧
      frameParse tiny (tinyFrame 3 1 0 7) 1 0 = some (tinyParsed 3 1 0 7) ∧
      attempts (fed .receiving true 255 (tinyFrame 4 1 2 7)) 15 1 0 (tinyFrame 4 1 2 7) ∧
      frameParse tiny (tinyFrame 4 1 2 7) 1 0 = some (tinyParsed 4 1 2 7) ∧
      attempts (fed .receiving false 0 (tinyFrame 4 1 3 7)) 15 1 0 (tinyFrame 4 1 3 7) ∧
      frameParse tiny (tinyFrame 4 1 3 7) 1 0 = some (tinyParsed 4 1 3 7) := by
  unfold attempts; decide +kernel

/-- `FullWindowAlwaysMakesRoom`: a full window that begins with a sync word. -/
theorem witness_full_window :
    let s := { tiny0 with cap := 2, dec := { tiny0.dec with rx := (tinyFrame 3 1 0 7).drop 1 ++ zeros 6 } }
    s.cfg.valid = true ∧ s.dec.state ≠ .finished ∧ s.dec.rx.length = s.cfg.rxcap ∧
      s.cfg.G * s.cfg.L ≤ s.cap ∧ (nextOf (exec .decFeed s)).isSome = true := by decide +kernel

/-- `CleanFrameReachesItsSlot`: the parity slot. -/
theorem witness_clean_frame :
    let s := { State.reset with
      cap := 40
      inSlice := (frameBuild Config.reference 0x03 1 4 chunkA).1
      dec := { State.reset.dec with state := .receiving, curGroupValid := true, curGroup := 1 } }
    s.cfg = Config.reference ∧ chunkA.length = 10 ∧ (4 : Byte).toNat ≤ 4 ∧ s.dec.state = .receiving ∧
      s.dec.curGroupValid = true ∧ s.dec.curGroup = 1 ∧ s.dec.rx = [] ∧ 40 ≤ s.cap ∧
      s.inSlice = (frameBuild Config.reference 0x03 1 4 chunkA).1 := by
  refine ⟨rfl, rfl, by decide, rfl, rfl, rfl, rfl, by decide, rfl⟩

end Sys2Proof.Tests
end

section
/-! PROOFS. The invariant of the whole block right after a reset (10_state.md R160, 70_reset_and_hazards.md R950,
R951): each unit's reset state meets its part, at every configuration that defines a block; `State.reset` is the power-on
state of the reference configuration. -/

namespace Sys2Proof.Machine

/-! ### The encoder unit -/

/-- A repeat phase is entered for good only when its count is not 0 (R701). -/
theorem encEntered_count_pos (cfg : Config) (S : EncState) :
    (encEntered cfg S = .training → 0 < cfg.nTrain) ∧
    (encEntered cfg S = .start → 0 < cfg.nStart) ∧
    (encEntered cfg S = .endPhase → 0 < cfg.nEnd) := by
  cases S <;> simp only [encEntered] <;> grind

/-- END and FINISHED are reached only by entering END or FINISHED (R701). -/
theorem encEntered_after_data {cfg : Config} {S : EncState} (ht : encEntered cfg S ≠ .training)
    (hs : encEntered cfg S ≠ .start) (hd : encEntered cfg S ≠ .data) : S = .endPhase ∨ S = .finished := by
  cases S <;> simp only [encEntered] at ht hs hd <;> grind

/-- Entering DATA meets the invariant whatever group stood before: the group starts afresh (R701). -/
theorem encEnterData_encInv {cfg : Config} {e : EncUnit} (hL : 1 ≤ cfg.L) (hstage : e.stage.length = cfg.L)
    (hscr : e.scr ≠ 0) : EncInv cfg (encEnterData cfg e) where
  parity_len := by simp
  stage_len := hstage
  stageCnt_le := Nat.zero_le _
  slotCnt_le := Nat.zero_le _
  scr_ne := hscr
  groupId_ne _ _ := by simp
  phase_zero _ := rfl
  phase_training h := by simp at h
  phase_start h := by simp at h
  phase_end h := by simp at h
  parked h := by simp at h; omega
  fresh _ := rfl

/-- A state entry (R701) meets the invariant, given the registers it leaves as they were: the stage is not full, and
there is a group_id when END or FINISHED is entered. -/
theorem encEnter_encInv {cfg : Config} {e : EncUnit} (S : EncState)
    (hparity : e.parityAcc.length = cfg.L) (hstage : e.stage.length = cfg.L) (hcnt : e.stageCnt < cfg.L)
    (hslot : e.slotCnt.toNat ≤ cfg.G) (hscr : e.scr ≠ 0)
    (hgid : S = .endPhase ∨ S = .finished → e.groupId ≠ 0)
    (hfresh : e.slotCnt = 0 → e.parityAcc = zeros cfg.L) : EncInv cfg (encEnter cfg S e) := by
  rcases encEnter_spec cfg S e with ⟨-, henter⟩ | ⟨hdata, henter⟩ <;> rw [henter]
  · exact encEnterData_encInv (by omega) hstage hscr
  · obtain ⟨htrain, hstart, hend⟩ := encEntered_count_pos cfg S
    exact
      { parity_len := hparity
        stage_len := hstage
        stageCnt_le := hcnt.le
        slotCnt_le := hslot
        scr_ne := hscr
        groupId_ne := fun ht hs => hgid (encEntered_after_data ht hs hdata)
        phase_zero := fun _ => rfl
        phase_training := htrain
        phase_start := hstart
        phase_end := hend
        parked := fun h => absurd h hcnt.ne
        fresh := hfresh }

/-- The encoder unit's reset state (R720, R951), whichever state its `enc_enter(TRAINING)` ends in. -/
theorem encResetUnit_encInv {cfg : Config} (hv : cfg.valid = true) : EncInv cfg (encResetUnit cfg) :=
  encEnter_encInv .training (zeros_length _) (zeros_length _) (Config.one_le_L hv) (Nat.zero_le _)
    (Config.seed_ne hv) (by simp) (fun _ => rfl)

/-! ### The decoder unit and the whole block -/

/-- The decoder unit's reset state (R820). -/
theorem decResetUnit_decInv {cfg : Config} (hv : cfg.valid = true) : DecInv cfg (decResetUnit cfg) where
  slot_len := List.length_replicate
  slot_bytes p hp := by rw [List.eq_of_mem_replicate hp, zeros_length]
  present_len := List.length_replicate
  rx_le := Nat.zero_le _
  scr_ne := Config.seed_ne hv
  inactive _ := rfl
  noGroup _ := ⟨rfl, rfl⟩

/-- Power-on reset meets the invariant at every configuration that defines a block (R950, R951). -/
theorem powerOn_blockInv {cfg : Config} (hv : cfg.valid = true) (pending : List HostEvent) :
    BlockInv (powerOn cfg pending) where
  cfg_valid := hv
  enc := encResetUnit_encInv hv
  dec := decResetUnit_decInv hv
  diagScr_ne := Config.seed_ne hv

/-- The reference configuration defines a block (00_scope.md R10, R11). -/
theorem reference_valid : Config.reference.valid = true := by decide

/-- Settles O9: `State.reset` is the power-on state of the reference configuration, and power-on reset meets the
invariant at every valid one. -/
theorem resetMeetsTheInvariant : Obligations.ResetMeetsTheInvariant := by
  unfold Obligations.ResetMeetsTheInvariant
  rw [reset_eq_powerOn]
  exact powerOn_blockInv reference_valid []

end Sys2Proof.Machine
end

section
/-! PROOFS. The encoder unit keeps its invariant through every feed step (46_encoder_fsm.md R702, R706 to R708, R711 to
R714): the registers a step does not write stay within their rules, and each step that writes them writes values that
meet them again. -/

namespace Sys2Proof.Machine

/-- The number of frames of a repeat phase, 0 for the states that are none (R702). -/
def phaseLen (cfg : Config) : EncState → Nat
  | .training => cfg.nTrain
  | .start => cfg.nStart
  | .endPhase => cfg.nEnd
  | .data | .finished => 0

/-- In a repeat phase the count has not reached the phase's number of frames. -/
theorem EncInv.phaseCnt_lt {cfg : Config} {e : EncUnit} (h : EncInv cfg e) (hd : e.state ≠ .data)
    (hf : e.state ≠ .finished) : e.phaseCnt.toNat < phaseLen cfg e.state := by
  cases hs : e.state with
  | training => exact h.phase_training hs
  | start => exact h.phase_start hs
  | endPhase => exact h.phase_end hs
  | data => exact absurd hs hd
  | finished => exact absurd hs hf

/-- Outside DATA no chunk is staged whole (R115). -/
theorem EncInv.stageCnt_lt {cfg : Config} {e : EncUnit} (h : EncInv cfg e) (hd : e.state ≠ .data) :
    e.stageCnt < cfg.L :=
  lt_of_le_of_ne h.stageCnt_le fun hfull => hd (h.parked hfull).1

/-- One more frame that does not complete the phase leaves the count below it, the 32-bit wrap included (R111). -/
theorem phaseCnt_succ_lt {c : Word} {N : Nat} (hlt : c.toNat < N) (hne : (c + 1).toNat ≠ N) :
    (c + 1).toNat < N := by
  have hsucc : (c + 1).toNat = (c.toNat + 1) % 2 ^ 32 := by simp [BitVec.toNat_add]
  omega

/-- `next_gid` never gives 0 (R704). -/
theorem nextGid_ne_zero : ∀ g : Byte, nextGid g ≠ 0 := by decide +kernel

/-- Emitting a frame writes `ENC_SCR`, to a nonzero state, and the counters (R400, R703). -/
theorem encEmit_frame_of_valid {cfg : Config} (hv : cfg.valid = true) (type : FrameType) (gid sid : Byte)
    (p : List Byte) (e : EncUnit) :
    ∃ v a b c d f, v ≠ 0 ∧ (encEmit cfg type gid sid p e).1 =
      { e with scr := v, cntTraining := a, cntStart := b, cntData := c, cntParity := d, cntEnd := f } := by
  obtain ⟨-, a, b, c, d, f, hemit⟩ := encEmit_frame cfg type gid sid p e
  exact ⟨_, a, b, c, d, f, frameBuild_ne_zero _ _ _ _ _ (Config.seed_ne hv), hemit⟩

/-- What an ordinary chunk changes (R713): beside what its DATA frame writes, the parity, the slot count and the stage
count. -/
theorem encOrdinary_frame {cfg : Config} (hv : cfg.valid = true) (e : EncUnit) (ch : List Byte) (k : Nat) :
    ∃ v a b c d f, v ≠ 0 ∧ (encOrdinary cfg e ch k).1 =
      { e with parityAcc := xorBytes e.parityAcc ch, slotCnt := e.slotCnt + 1, stageCnt := 0, scr := v,
               cntTraining := a, cntStart := b, cntData := c, cntParity := d, cntEnd := f } := by
  obtain ⟨v, a, b, c, d, f, hscr, hemit⟩ := encEmit_frame_of_valid hv .data e.groupId e.slotCnt ch
    { e with parityAcc := xorBytes e.parityAcc ch }
  exact ⟨v, a, b, c, d, f, hscr, by simp only [encOrdinary, hemit]⟩

/-- A repeat phase (R708): it counts on below its number of frames, or enters the next state. The states that ask for a
group_id are entered from END alone, which has one. -/
theorem encRepeat_encInv {cfg : Config} {e : EncUnit} {S : EncState} (hv : cfg.valid = true)
    (h : EncInv cfg e) (hs : e.state = S) (hd : S ≠ .data) (hf : S ≠ .finished) (type : FrameType)
    (after : EncState) (hafter : after = .endPhase ∨ after = .finished → S = .endPhase) :
    EncInv cfg (encRepeat cfg type (phaseLen cfg S) after e).1 := by
  subst hs
  obtain ⟨_, _, _, _, _, _, hscr, hemit⟩ := encEmit_frame_of_valid hv type 0 0 (zeros cfg.L) e
  have hlt := h.phaseCnt_lt hd hf
  simp only [encRepeat, hemit]
  split
  next =>
    exact encEnter_encInv after h.parity_len h.stage_len (h.stageCnt_lt hd) h.slotCnt_le hscr
      (fun ha => h.groupId_ne (by simp [hafter ha]) (by simp [hafter ha])) h.fresh
  next hne =>
    have hcount := phaseCnt_succ_lt hlt hne
    exact
      { h with
        scr_ne := hscr
        phase_zero := fun hs => (hs.elim hd hf).elim
        phase_training := fun hs => hs ▸ hcount
        phase_start := fun hs => hs ▸ hcount
        phase_end := fun hs => hs ▸ hcount }

/-- A stage that the input does not fill (R711). -/
theorem encStage_encInv {cfg : Config} {e : EncUnit} {inp : List Byte} (h : EncInv cfg e)
    (hlt : (encStage cfg e inp).stageCnt < cfg.L) : EncInv cfg (encStage cfg e inp) :=
  { h with
    stage_len := encStage_length inp h.stage_len h.stageCnt_le
    stageCnt_le := hlt.le
    parked := fun hfull => absurd hfull hlt.ne }

/-- The end of the stream (R712): the stage is emptied and END entered, with the group_id of DATA. -/
theorem encSentinel_encInv {cfg : Config} {e : EncUnit} (hv : cfg.valid = true) (h : EncInv cfg e)
    (hd : e.state = .data) (inp : List Byte) (k : Nat) :
    EncInv cfg (encSentinel cfg (encStage cfg e inp) k).1 := by
  have hstage := encStage_length inp h.stage_len h.stageCnt_le
  have hgid : e.groupId ≠ 0 := h.groupId_ne (by simp [hd]) (by simp [hd])
  have hL := Config.one_le_L hv
  simp only [encSentinel]
  split
  next =>
    obtain ⟨_, _, _, _, _, _, hscr, hemit⟩ := encEmit_frame_of_valid hv .parity
      (encStage cfg e inp).groupId (BitVec.ofNat 8 cfg.G) (encStage cfg e inp).parityAcc (encStage cfg e inp)
    rw [encEmitParity, hemit]
    exact encEnter_encInv .endPhase h.parity_len hstage hL h.slotCnt_le hscr (fun _ => hgid) h.fresh
  next =>
    exact encEnter_encInv .endPhase h.parity_len hstage hL h.slotCnt_le h.scr_ne (fun _ => hgid) h.fresh

/-- A full group (R714): a new group starts, and the chunk, which is not the sentinel, waits for its slot 0. -/
theorem encFullGroup_encInv {cfg : Config} {e : EncUnit} {inp : List Byte} (hv : cfg.valid = true)
    (h : EncInv cfg e) (hd : e.state = .data) (hne : (encStage cfg e inp).stage.take cfg.L ≠ cfg.eos)
    (k : Nat) : EncInv cfg (encFullGroup cfg (encStage cfg e inp) k).1 := by
  have hstage := encStage_length inp h.stage_len h.stageCnt_le
  rw [List.take_of_length_le hstage.le] at hne
  obtain ⟨_, _, _, _, _, _, hscr, hemit⟩ := encEmit_frame_of_valid hv .parity
    (encStage cfg e inp).groupId (BitVec.ofNat 8 cfg.G) (encStage cfg e inp).parityAcc (encStage cfg e inp)
  simp only [encFullGroup, encEmitParity, hemit]
  exact
    { h with
      parity_len := zeros_length _
      stage_len := hstage
      stageCnt_le := encStage_count_le inp h.stageCnt_le
      slotCnt_le := Nat.zero_le _
      scr_ne := hscr
      groupId_ne := fun _ _ => nextGid_ne_zero _
      parked := fun _ => ⟨hd, rfl, hne⟩
      fresh := fun _ => rfl }

/-- The slot count of a group with room does not wrap (R11, R113). -/
theorem EncInv.slotCnt_succ {cfg : Config} {e : EncUnit} (hv : cfg.valid = true) (h : EncInv cfg e)
    (hroom : e.slotCnt.toNat ≠ cfg.G) :
    (e.slotCnt + 1).toNat = e.slotCnt.toNat + 1 ∧ e.slotCnt.toNat + 1 ≤ cfg.G := by
  have hle := h.slotCnt_le
  have hG := Config.G_le hv
  have hsucc : (e.slotCnt + 1).toNat = (e.slotCnt.toNat + 1) % 2 ^ 8 := by simp [BitVec.toNat_add]
  omega

/-- An ordinary chunk (R713): it has `L` bytes, and the group has room for it. -/
theorem encOrdinary_encInv {cfg : Config} {e : EncUnit} (hv : cfg.valid = true) (h : EncInv cfg e)
    (hroom : e.slotCnt.toNat ≠ cfg.G) (inp : List Byte) (k : Nat) :
    EncInv cfg (encOrdinary cfg (encStage cfg e inp) ((encStage cfg e inp).stage.take cfg.L) k).1 := by
  have hstage := encStage_length inp h.stage_len h.stageCnt_le
  have hL := Config.one_le_L hv
  obtain ⟨hsucc, hle⟩ := h.slotCnt_succ hv hroom
  have hchunk : ((encStage cfg e inp).stage.take cfg.L).length = cfg.L := by
    rw [List.length_take, hstage, Nat.min_self]
  obtain ⟨_, _, _, _, _, _, hscr, heq⟩ :=
    encOrdinary_frame hv (encStage cfg e inp) ((encStage cfg e inp).stage.take cfg.L) k
  rw [heq]
  exact
    { h with
      parity_len := by rw [xorBytes_length, hchunk, encStage_parityAcc, h.parity_len, Nat.min_self]
      stage_len := hstage
      stageCnt_le := Nat.zero_le _
      slotCnt_le := hsucc.trans_le hle
      scr_ne := hscr
      parked := fun hfull => absurd hfull (Nat.ne_of_lt hL)
      fresh := fun hzero => absurd (hsucc.symm.trans (congrArg BitVec.toNat hzero)) (Nat.succ_ne_zero _) }

/-- Every way a DATA step ends (R711 to R714). -/
theorem encDataStep_encInv {cfg : Config} {e : EncUnit} (hv : cfg.valid = true) (h : EncInv cfg e)
    (hd : e.state = .data) (inp : List Byte) : EncInv cfg (encDataStep cfg e inp).1 := by
  rcases encDataStep_cases cfg e inp with ⟨hlt, heq⟩ | ⟨-, -, heq⟩ | ⟨-, hne, -, heq⟩ | ⟨-, -, hroom, heq⟩ <;>
    rw [heq]
  · exact encStage_encInv h hlt
  · exact encSentinel_encInv hv h hd inp _
  · exact encFullGroup_encInv hv h hd hne _
  · exact encOrdinary_encInv hv h hroom inp _

/-- ENC.FEED keeps the encoder unit's invariant (R721). -/
theorem encFeed_encInv {cfg : Config} {e : EncUnit} (hv : cfg.valid = true) (h : EncInv cfg e)
    (inp : List Byte) (m : Nat) : EncInv cfg (encFeed cfg e inp m).1 := by
  rcases encFeed_cases cfg e inp m with ⟨-, heq⟩ | ⟨-, -, heq⟩ | ⟨-, hs, heq⟩ | ⟨-, hs, heq⟩ | ⟨-, hs, heq⟩ |
    ⟨-, hs, heq⟩ <;> rw [heq]
  · exact h
  · exact h
  · exact encRepeat_encInv hv h hs (by decide) (by decide) .training .start (by decide)
  · exact encRepeat_encInv hv h hs (by decide) (by decide) .start .data (by decide)
  · exact encRepeat_encInv hv h hs (by decide) (by decide) .endFrame .finished (by decide)
  · exact encDataStep_encInv hv h hs inp

end Sys2Proof.Machine
end

section
/-! PROOFS. The decoder unit keeps its invariant through every feed step (47_decoder_fsm.md R801 to R816): the window only
grows into its free room and shrinks, and each frame type's step leaves a group current only in RECEIVING and an empty
buffer without one. -/

namespace Sys2Proof.Machine

/-- The window takes no more than its free room (R801). -/
theorem decAccept_decInv {cfg : Config} {d : DecUnit} (h : DecInv cfg d) (inp : List Byte) :
    DecInv cfg (decAccept cfg d inp) :=
  { h with
    rx_le := by
      have hle := h.rx_le
      simp only [decAccept_rx, decTaken, List.length_append, List.length_take]
      omega }

/-- Bytes leave the window, the scrambler register takes a nonzero state, and a failed CRC is counted (R804 to R808). -/
theorem DecInv.discard {cfg : Config} {d : DecUnit} (h : DecInv cfg d) (k : Nat) {v : ScrState} (hscr : v ≠ 0)
    (n : Word) : DecInv cfg { d with rx := d.rx.drop k, scr := v, cntCrcFail := n } :=
  { h with
    rx_le := (d.rx.length_drop ▸ Nat.sub_le _ _).trans h.rx_le
    scr_ne := hscr }

/-- A START frame (R813): no group is current and the buffer is empty. -/
theorem decStartFrame_decInv {cfg : Config} {d : DecUnit} (h : DecInv cfg d) :
    DecInv cfg (decStartFrame cfg d).1 :=
  { h with
    present_len := List.length_replicate
    inactive := fun _ => rfl
    noGroup := fun _ => ⟨rfl, rfl⟩ }

/-- An END frame (R812): the flush empties the buffer, and no group is current. -/
theorem decEndFrame_decInv {cfg : Config} {d : DecUnit} (h : DecInv cfg d) :
    DecInv cfg (decEndFrame cfg d).1 := by
  obtain ⟨_, _, hflush, hlen, hbytes⟩ := groupFlush_frame cfg { d with cntEnd := d.cntEnd + 1 }
  simp only [decEndFrame, hflush]
  exact
    { h with
      slot_len := hlen.trans h.slot_len
      slot_bytes := hbytes h.slot_bytes h.slot_len
      present_len := List.length_replicate
      inactive := fun _ => rfl
      noGroup := fun _ => ⟨rfl, rfl⟩ }

/-- Filing a payload (R814), which is done in RECEIVING only: its group is current afterwards. -/
theorem decFile_decInv {cfg : Config} {d : DecUnit} {p : Parsed} (h : DecInv cfg d)
    (hr : d.state = .receiving) (hp : p.payload.length = cfg.L) : DecInv cfg (decFile cfg p d).1 := by
  obtain ⟨_, _, _, _, hfile, hlen, hpresent, hbytes, -⟩ := decFile_frame cfg p d
  rw [hfile]
  exact
    { h with
      slot_len := hlen.trans h.slot_len
      slot_bytes := hbytes hp h.slot_bytes h.slot_len
      present_len := hpresent h.present_len
      inactive := fun hs => absurd hr hs
      noGroup := fun hnone => Bool.noConfusion hnone }

/-- A DATA frame (R814, R815). -/
theorem decDataFrame_decInv {cfg : Config} {d : DecUnit} {p : Parsed} (h : DecInv cfg d)
    (hp : p.payload.length = cfg.L) : DecInv cfg (decDataFrame cfg p d).1 := by
  unfold decDataFrame
  split
  next hr => exact decFile_decInv (d := { d with cntData := d.cntData + 1 }) { h with } hr hp
  next => exact h

/-- A PARITY frame (R814, R815). -/
theorem decParityFrame_decInv {cfg : Config} {d : DecUnit} {p : Parsed} (h : DecInv cfg d)
    (hp : p.payload.length = cfg.L) : DecInv cfg (decParityFrame cfg p d).1 := by
  unfold decParityFrame
  split
  next hr => exact decFile_decInv (d := { d with cntParity := d.cntParity + 1 }) { h with } hr hp
  next => exact h

/-- The dispatch of an accepted frame, by its type (R809, R811 to R815). -/
theorem decDispatch_decInv {cfg : Config} {d : DecUnit} {p : Parsed} (h : DecInv cfg d)
    (hp : p.payload.length = cfg.L) : DecInv cfg (decDispatch cfg p d).1 := by
  unfold decDispatch
  cases FrameType.ofCode p.type with
  | none => exact h
  | some type =>
    cases type with
    | training => exact { h with }
    | start => exact decStartFrame_decInv h
    | endFrame => exact decEndFrame_decInv h
    | data => exact decDataFrame_decInv h hp
    | parity => exact decParityFrame_decInv h hp

/-- Every way a frame attempt ends (R803 to R809). -/
theorem decAttempt_decInv {cfg : Config} {d : DecUnit} (hv : cfg.valid = true) (h : DecInv cfg d) :
    DecInv cfg (decAttempt cfg d).1 := by
  rcases decAttempt_cases cfg d with ⟨-, heq⟩ | ⟨o, s, -, ⟨-, heq⟩ | ⟨p, hparse, ⟨-, heq⟩ | ⟨-, heq⟩⟩⟩ <;>
    rw [heq]
  case inl => exact h.discard _ h.scr_ne _
  case inr.inl => exact h.discard _ h.scr_ne _
  case inr.inr.inl => exact h.discard _ (frameParse_ne_zero hparse (Config.seed_ne hv)) _
  case inr.inr.inr =>
    exact decDispatch_decInv (h.discard _ (frameParse_ne_zero hparse (Config.seed_ne hv)) _)
      (frameParse_payload_length hparse)

/-- DEC.FEED keeps the decoder unit's invariant (R821). -/
theorem decFeed_decInv {cfg : Config} {d : DecUnit} (hv : cfg.valid = true) (h : DecInv cfg d)
    (inp : List Byte) (m : Nat) : DecInv cfg (decFeed cfg d inp m).1 := by
  rcases decFeed_cases cfg d inp m with ⟨-, heq⟩ | ⟨-, -, heq⟩ | ⟨-, -, heq⟩ <;> rw [heq]
  · exact h
  · exact decAccept_decInv h inp
  · exact decAttempt_decInv hv (decAccept_decInv h inp)

end Sys2Proof.Machine
end

section
/-! PROOFS. Every step of the block keeps the invariant of the three units (10_state.md R110 to R140). A command writes
the registers of one unit (20_memory.md R211), so each unit's part of the invariant is that unit's own affair. -/

namespace Sys2Proof.Machine

/-! ### What a command can write -/

/-- FRAME.BUILD answers without a state change, or leaves the diagnostic scrambler where the frame left it (R570). -/
theorem execFrameBuild_next {type gid sid : Byte} {s t : State} (h : execFrameBuild type gid sid s = .next t) :
    t = s.answerNotPerformed ∨
    t = (s.setDiagScr (frameBuild s.cfg type gid sid (s.inTake s.cfg.L)).2).respond s.cfg.L
      (frameBuild s.cfg type gid sid (s.inTake s.cfg.L)).1 .cont 0 := by
  unfold execFrameBuild at h
  split at h <;> cases h
  · exact .inl rfl
  · exact .inr rfl

/-- FRAME.PARSE answers NOT_PERFORMED or SHORT without a state change, or leaves the diagnostic scrambler where the parse
left it (R571). -/
theorem execFrameParse_next {sh : BitVec 3} {o : BitVec 16} {s t : State}
    (h : execFrameParse sh o s = .next t) :
    t = s.answerNotPerformed ∨ t = s.respond s.n [] .cont shortResult ∨
    ∃ p, frameParse s.cfg s.inSlice o.toNat sh.toNat = some p ∧
      t = (s.setDiagScr p.sEnd).respond s.n p.payload .cont (parseResult p.type p.gid p.sid p.crcOk) := by
  unfold execFrameParse at h
  split at h
  · cases h; exact .inl rfl
  · split at h <;> cases h
    · exact .inr (.inl rfl)
    next p hp => exact .inr (.inr ⟨p, hp, rfl⟩)

/-- SYNC.SEARCH, where it is not refused, changes no state (R610). -/
theorem execSyncSearch_next {s t : State} (h : execSyncSearch s = .next t) :
    ∃ r, t = s.respond s.n [] .cont r := by
  unfold execSyncSearch at h
  split at h
  · cases h
  · split at h <;> cases h <;> exact ⟨_, rfl⟩

/-- A status command changes no state, listed index or not (R730, R830). -/
theorem answerStatus_eq_respond (s : State) (v : Option Word) :
    ∃ sig r, s.answerStatus v = s.respond 0 [] sig r := by
  cases v <;> exact ⟨_, _, rfl⟩

/-- Everything a command can write (R208, R211, R306): the response alone; the diagnostic scrambler, whose new state is
not 0 when neither `SEED` nor the old one is; or a whole unit, by that unit's reset or feed. -/
theorem exec_next {i : Instr} {s t : State} (h : exec i s = .next t) :
    (∃ c out sig r, t = s.respond c out sig r) ∨
    (unitOf i = some .diagnostic ∧
      ∃ v c out sig r, (s.cfg.seed ≠ 0 → s.diagScr ≠ 0 → v ≠ 0) ∧ t = (s.setDiagScr v).respond c out sig r) ∨
    (i = .encReset ∧ t = s.commitEnc (encResetUnit s.cfg, ⟨0, [], .cont, 0⟩)) ∨
    (i = .encFeed ∧ t = s.commitEnc (encFeed s.cfg s.enc s.inSlice s.m)) ∨
    (i = .decReset ∧ t = s.commitDec (decResetUnit s.cfg, ⟨0, [], .cont, 0⟩)) ∨
    (i = .decFeed ∧ t = s.commitDec (decFeed s.cfg s.dec s.inSlice s.m)) := by
  cases i with
  | nop | hamEnc nib | hamDec cw | crc32 => cases h; exact .inl ⟨_, _, _, _, rfl⟩
  | syncSearch =>
    obtain ⟨_, rfl⟩ := execSyncSearch_next h
    exact .inl ⟨_, _, _, _, rfl⟩
  | encStat idx =>
    cases h
    obtain ⟨_, _, heq⟩ := answerStatus_eq_respond s (encStatus s.enc idx)
    exact .inl ⟨_, _, _, _, heq⟩
  | decStat idx =>
    cases h
    obtain ⟨_, _, heq⟩ := answerStatus_eq_respond s (decStatus s.dec idx)
    exact .inl ⟨_, _, _, _, heq⟩
  | scrReset => cases h; exact .inr (.inl ⟨rfl, _, _, _, _, _, fun hseed _ => hseed, rfl⟩)
  | scrNext =>
    cases h
    exact .inr (.inl ⟨rfl, _, _, _, _, _, fun _ hscr => scrNextByte_ne_zero _ hscr, rfl⟩)
  | scrProcess rst =>
    cases h
    refine .inr (.inl ⟨rfl, _, _, _, _, _, fun hseed hscr => scramble_ne_zero _ _ ?_, rfl⟩)
    cases rst
    · exact hscr
    · exact hseed
  | frameBuild type gid sid =>
    rcases execFrameBuild_next h with rfl | rfl
    · exact .inl ⟨_, _, _, _, rfl⟩
    · exact .inr (.inl ⟨rfl, _, _, _, _, _, fun hseed _ => frameBuild_ne_zero _ _ _ _ _ hseed, rfl⟩)
  | frameParse sh o =>
    rcases execFrameParse_next h with rfl | rfl | ⟨p, hp, rfl⟩
    · exact .inl ⟨_, _, _, _, rfl⟩
    · exact .inl ⟨_, _, _, _, rfl⟩
    · exact .inr (.inl ⟨rfl, _, _, _, _, _, fun hseed _ => frameParse_ne_zero hp hseed, rfl⟩)
  | encReset => cases h; exact .inr (.inr (.inl ⟨rfl, rfl⟩))
  | encFeed => cases h; exact .inr (.inr (.inr (.inl ⟨rfl, rfl⟩)))
  | decReset => cases h; exact .inr (.inr (.inr (.inr (.inl ⟨rfl, rfl⟩))))
  | decFeed => cases h; exact .inr (.inr (.inr (.inr (.inr ⟨rfl, rfl⟩))))

/-! ### The invariant of the block -/

/-- The invariant speaks of the configuration and the three units, not of the interface. -/
theorem BlockInv.of_eq {s t : State} (h : BlockInv s) (hcfg : t.cfg = s.cfg) (henc : t.enc = s.enc)
    (hdec : t.dec = s.dec) (hdiag : t.diagScr = s.diagScr) : BlockInv t where
  cfg_valid := hcfg ▸ h.cfg_valid
  enc := hcfg ▸ henc ▸ h.enc
  dec := hcfg ▸ hdec ▸ h.dec
  diagScr_ne := hdiag ▸ h.diagScr_ne

/-- An encoder command need only keep the encoder unit's part. -/
theorem BlockInv.commitEnc {s : State} (h : BlockInv s) {p : EncUnit × Response} (hp : EncInv s.cfg p.1) :
    BlockInv (s.commitEnc p) :=
  { h with enc := hp }

/-- A decoder command need only keep the decoder unit's part. -/
theorem BlockInv.commitDec {s : State} (h : BlockInv s) {p : DecUnit × Response} (hp : DecInv s.cfg p.1) :
    BlockInv (s.commitDec p) :=
  { h with dec := hp }

/-- Every command keeps the invariant. -/
theorem exec_keeps_blockInv {i : Instr} {s t : State} (h : BlockInv s) (hexec : exec i s = .next t) :
    BlockInv t := by
  have hv := h.cfg_valid
  rcases exec_next hexec with ⟨_, _, _, _, rfl⟩ | ⟨-, v, _, _, _, _, hne, rfl⟩ | ⟨-, rfl⟩ | ⟨-, rfl⟩ | ⟨-, rfl⟩ |
    ⟨-, rfl⟩
  · exact h.of_eq rfl rfl rfl rfl
  · exact { h with diagScr_ne := hne (Config.seed_ne hv) h.diagScr_ne }
  · exact h.commitEnc (encResetUnit_encInv hv)
  · exact h.commitEnc (encFeed_encInv hv h.enc _ _)
  · exact h.commitDec (decResetUnit_decInv hv)
  · exact h.commitDec (decFeed_decInv hv h.dec _ _)

/-- Settles O8: a step holds the state, resets the block, answers ILLEGAL, or runs a command; presenting a command and
answering it write the interface alone. -/
theorem stepKeepsTheInvariant : Obligations.StepKeepsTheInvariant := by
  intro s t h hstep
  rcases step_next hstep with ⟨-, rfl⟩ | ⟨rest, -, rfl⟩ | ⟨c, rest, _, -, -, rfl⟩ | ⟨c, rest, i, -, -, hexec⟩
  · exact h
  · exact powerOn_blockInv h.cfg_valid rest
  · exact h.of_eq rfl rfl rfl rfl
  · exact exec_keeps_blockInv (s := s.present c rest) (h.of_eq rfl rfl rfl rfl) hexec

end Sys2Proof.Machine
end

section
/-! PROOFS. The status maps of the encoder and the decoder (10_state.md R150, R151): the register at each listed index,
nothing at any other. -/

namespace Sys2Proof.Machine

/-! ### The encoder's map -/

/-- ENC.STAT at an index the map lists (R730). -/
theorem exec_encStat_of_some {s : State} {idx : BitVec 8} {v : Word} (h : encStatus s.enc idx = some v) :
    exec (.encStat idx) s = .next { s with response := some ⟨0, [], .cont, v⟩ } :=
  congrArg (Host.Outcome.next <| s.answerStatus ·) h

/-- ENC.STAT at an index the map does not list (R311, R730). -/
theorem exec_encStat_of_none {s : State} {idx : BitVec 8} (h : encStatus s.enc idx = none) :
    exec (.encStat idx) s = .next { s with response := some ⟨0, [], .illegal, 0⟩ } :=
  congrArg (Host.Outcome.next <| s.answerStatus ·) h

/-- Settles O46: the eleven listed indices one by one, and all others together. -/
theorem encStatReadsTheMap : Obligations.EncStatReadsTheMap := by
  intro idx s
  constructor
  · intro v hmem
    apply exec_encStat_of_some
    simp only [List.mem_cons, List.not_mem_nil, or_false, Prod.mk.injEq] at hmem
    rcases hmem with ⟨rfl, rfl⟩ | ⟨rfl, rfl⟩ | ⟨rfl, rfl⟩ | ⟨rfl, rfl⟩ | ⟨rfl, rfl⟩ | ⟨rfl, rfl⟩ | ⟨rfl, rfl⟩ |
      ⟨rfl, rfl⟩ | ⟨rfl, rfl⟩ | ⟨rfl, rfl⟩ | ⟨rfl, rfl⟩ <;> rfl
  · intro hunlisted
    apply exec_encStat_of_none
    simp only [List.mem_cons, List.not_mem_nil, or_false, not_or] at hunlisted
    simp only [encStatus, hunlisted, if_false]

/-! ### The decoder's map -/

/-- DEC.STAT at an index the map lists (R830). -/
theorem exec_decStat_of_some {s : State} {idx : BitVec 8} {v : Word} (h : decStatus s.dec idx = some v) :
    exec (.decStat idx) s = .next { s with response := some ⟨0, [], .cont, v⟩ } :=
  congrArg (Host.Outcome.next <| s.answerStatus ·) h

/-- DEC.STAT at an index the map does not list (R311, R830). -/
theorem exec_decStat_of_none {s : State} {idx : BitVec 8} (h : decStatus s.dec idx = none) :
    exec (.decStat idx) s = .next { s with response := some ⟨0, [], .illegal, 0⟩ } :=
  congrArg (Host.Outcome.next <| s.answerStatus ·) h

/-- One round of the presence word's loop sets or leaves bit `k` alone (R151). -/
theorem getLsbD_setBit (acc : Word) (b : Bool) {i k : Nat} (hi : i < 32) :
    (if b then acc ||| (1 : Word) <<< k else acc).getLsbD i = (acc.getLsbD i || (b && decide (i = k))) := by
  cases b
  · simp
  · by_cases h : i = k
    · subst h; simp [hi]
    · simp [hi, h]; omega

/-- After `n` rounds of the presence word's loop the bits below `n` show their slots, the others are 0. -/
theorem presentWord_loop_getLsbD (present : List Bool) (n : Nat) {i : Nat} (hi : i < 32) :
    ((List.range n).foldl
      (fun acc j => if present.getD j false then acc ||| (1 : Word) <<< j else acc) 0).getLsbD i =
      (decide (i < n) && present.getD i false) := by
  induction n with
  | zero => simp
  | succ n ih =>
    rw [List.range_succ, List.foldl_append, List.foldl_cons, List.foldl_nil, getLsbD_setBit _ _ hi, ih]
    rcases Nat.lt_trichotomy i n with hlt | rfl | hgt
    · simp [hlt, hlt.ne, show i < n + 1 by omega]
    · simp
    · simp [hgt.ne', show ¬ i < n by omega, show ¬ i < n + 1 by omega]

/-- Bit `i` of the presence word is slot `i`'s presence bit, 0 above `G` (R151). -/
theorem presentWord_getLsbD_iff (present : List Bool) {i : Nat} (hi : i < 32) :
    (presentWord present).getLsbD i = true ↔ present[i]? = some true := by
  rw [presentWord, presentWord_loop_getLsbD present 32 hi, List.getD_eq_getElem?_getD]
  cases present[i]? <;> simp [hi]

/-- The current group's register: the valid flag in bit 8 above the group_id (R151). -/
theorem decStatus_one (d : DecUnit) :
    decStatus d 1 = some ((if d.curGroupValid then 0x100 else 0) ||| d.curGroup.setWidth 32) := by
  cases h : d.curGroupValid <;> simp [decStatus, h]

/-- Settles O59: the listed indices one by one, the presence word bit by bit, and all other indices together. -/
theorem decStatReadsTheMap : Obligations.DecStatReadsTheMap := by
  intro idx s
  refine ⟨fun v hmem => ?listed, ?presence, fun hunlisted => ?unlisted⟩
  case listed =>
    apply exec_decStat_of_some
    simp only [List.mem_cons, List.not_mem_nil, or_false, Prod.mk.injEq] at hmem
    rcases hmem with ⟨rfl, rfl⟩ | ⟨rfl, rfl⟩ | hmem
    · rfl
    · exact decStatus_one s.dec
    · rcases hmem with ⟨rfl, rfl⟩ | ⟨rfl, rfl⟩ | ⟨rfl, rfl⟩ | ⟨rfl, rfl⟩ | ⟨rfl, rfl⟩ | ⟨rfl, rfl⟩ | ⟨rfl, rfl⟩ |
        ⟨rfl, rfl⟩ | ⟨rfl, rfl⟩ <;> rfl
  case presence =>
    rintro rfl
    exact ⟨presentWord s.dec.present, exec_decStat_of_some rfl, fun i hi => presentWord_getLsbD_iff _ hi⟩
  case unlisted =>
    apply exec_decStat_of_none
    simp only [List.mem_cons, List.not_mem_nil, or_false, not_or] at hunlisted
    simp only [decStatus, hunlisted, if_false]

end Sys2Proof.Machine
end

section
/-! PROOFS. Commands to different units do not interfere (20_memory.md R208, R211). A command writes its own unit alone,
and what it answers and writes there depends on nothing but the configuration, `IN`, `CAP` and that unit. -/

namespace Sys2Proof.Machine

/-! ### The registers of one unit -/

/-- The registers a unit holds (10_state.md R110 to R140). -/
abbrev CmdUnit.Regs : CmdUnit → Type
  | .diagnostic => ScrState
  | .encoder => EncUnit
  | .decoder => DecUnit

/-- The registers of unit `u` in a state. -/
def State.regs (s : State) : (u : CmdUnit) → u.Regs
  | .diagnostic => s.diagScr
  | .encoder => s.enc
  | .decoder => s.dec

@[simp] theorem State.regs_diagnostic (s : State) : s.regs .diagnostic = s.diagScr := rfl
@[simp] theorem State.regs_encoder (s : State) : s.regs .encoder = s.enc := rfl
@[simp] theorem State.regs_decoder (s : State) : s.regs .decoder = s.dec := rfl

@[simp] theorem State.regs_respond (s : State) (c : Nat) (out : List Byte) (sig : Signal) (r : Word) (u : CmdUnit) :
    (s.respond c out sig r).regs u = s.regs u := by cases u <;> rfl

@[simp] theorem State.regs_interface (s : State) (inp : List Byte) (m : Nat) (u : CmdUnit) :
    ({ s with inSlice := inp, cap := m } : State).regs u = s.regs u := by cases u <;> rfl

theorem State.regs_setDiagScr_of_ne (s : State) (v : ScrState) {u : CmdUnit} (hu : u ≠ .diagnostic) :
    (s.setDiagScr v).regs u = s.regs u := by
  cases u with
  | diagnostic => exact absurd rfl hu
  | encoder | decoder => rfl

theorem State.regs_commitEnc_of_ne (s : State) (p : EncUnit × Response) {u : CmdUnit} (hu : u ≠ .encoder) :
    (s.commitEnc p).regs u = s.regs u := by
  cases u with
  | encoder => exact absurd rfl hu
  | diagnostic | decoder => rfl

theorem State.regs_commitDec_of_ne (s : State) (p : DecUnit × Response) {u : CmdUnit} (hu : u ≠ .decoder) :
    (s.commitDec p).regs u = s.regs u := by
  cases u with
  | decoder => exact absurd rfl hu
  | diagnostic | encoder => rfl

/-! ### What a command leaves unchanged -/

/-- A command keeps the configuration and what the host presents (R211). -/
theorem exec_interface {i : Instr} {s t : State} (h : exec i s = .next t) :
    t.cfg = s.cfg ∧ t.inSlice = s.inSlice ∧ t.cap = s.cap ∧ t.pending = s.pending := by
  rcases exec_next h with ⟨_, _, _, _, rfl⟩ | ⟨-, _, _, _, _, _, -, rfl⟩ | ⟨-, rfl⟩ | ⟨-, rfl⟩ | ⟨-, rfl⟩ | ⟨-, rfl⟩ <;>
    exact ⟨rfl, rfl, rfl, rfl⟩

/-- A command keeps the registers of every unit it is not addressed to (R211). -/
theorem exec_regs_of_ne {i : Instr} {s t : State} {u : CmdUnit} (h : exec i s = .next t)
    (hu : unitOf i ≠ some u) : t.regs u = s.regs u := by
  rcases exec_next h with ⟨_, _, _, _, rfl⟩ | ⟨hdiag, v, c, out, sig, r, -, rfl⟩ | ⟨rfl, rfl⟩ | ⟨rfl, rfl⟩ |
    ⟨rfl, rfl⟩ | ⟨rfl, rfl⟩
  · exact s.regs_respond _ _ _ _ u
  · calc ((s.setDiagScr v).respond c out sig r).regs u
        = (s.setDiagScr v).regs u := State.regs_respond _ _ _ _ _ u
      _ = s.regs u := s.regs_setDiagScr_of_ne v fun he => hu (he ▸ hdiag)
  · exact s.regs_commitEnc_of_ne _ fun he => hu (he ▸ rfl)
  · exact s.regs_commitEnc_of_ne _ fun he => hu (he ▸ rfl)
  · exact s.regs_commitDec_of_ne _ fun he => hu (he ▸ rfl)
  · exact s.regs_commitDec_of_ne _ fun he => hu (he ▸ rfl)

/-- The commands that write no register: NOP, the status reads and the stateless diagnostics (R208). -/
def writesNothing : Instr → Bool
  | .nop | .hamEnc _ | .hamDec _ | .crc32 | .syncSearch | .encStat _ | .decStat _ => true
  | _ => false

/-- A command that writes no register ends with its response alone (R208). -/
theorem exec_eq_respond {i : Instr} {s t : State} (hi : writesNothing i = true) (h : exec i s = .next t) :
    ∃ c out sig r, t = s.respond c out sig r := by
  cases i with
  | nop | hamEnc nib | hamDec cw | crc32 => cases h; exact ⟨_, _, _, _, rfl⟩
  | syncSearch =>
    obtain ⟨r, ht⟩ := execSyncSearch_next h
    exact ⟨_, _, _, r, ht⟩
  | encStat idx =>
    cases h
    obtain ⟨sig, r, ht⟩ := answerStatus_eq_respond s (encStatus s.enc idx)
    exact ⟨_, _, sig, r, ht⟩
  | decStat idx =>
    cases h
    obtain ⟨sig, r, ht⟩ := answerStatus_eq_respond s (decStatus s.dec idx)
    exact ⟨_, _, sig, r, ht⟩
  | scrReset | scrNext | scrProcess rst | frameBuild type gid sid | frameParse sh o | encReset | encFeed | decReset
  | decFeed => cases hi

/-- Settles O11: the frame of one unit at a time; the commands of R208 write their response alone. -/
theorem commandsStayInTheirUnit : Obligations.CommandsStayInTheirUnit := by
  intro i s t h
  refine ⟨exec_regs_of_ne (u := .encoder) h, exec_regs_of_ne (u := .decoder) h,
    exec_regs_of_ne (u := .diagnostic) h, fun hi => ?_, exec_interface h⟩
  have hread : writesNothing i = true := by cases i <;> trivial
  obtain ⟨_, _, _, _, rfl⟩ := exec_eq_respond hread h
  exact ⟨rfl, rfl, rfl⟩

/-! ### What a command depends on -/

/-- Two states look the same to command `i`: the configuration, `IN`, `CAP` and the registers of the unit it is
addressed to. -/
structure SameFor (i : Instr) (s s' : State) : Prop where
  cfg : s.cfg = s'.cfg
  inSlice : s.inSlice = s'.inSlice
  cap : s.cap = s'.cap
  regs : ∀ u, unitOf i = some u → s.regs u = s'.regs u

/-- Two ends of command `i` are the same: its response, and the registers of the unit it is addressed to. -/
def SameEnd (i : Instr) (t t' : State) : Prop :=
  t.response = t'.response ∧ ∀ u, unitOf i = some u → t.regs u = t'.regs u

namespace SameFor
variable {i : Instr} {s s' : State}

theorem n (h : SameFor i s s') : s.n = s'.n := congrArg List.length h.inSlice

theorem m (h : SameFor i s s') : s.m = s'.m := h.cap

theorem inTake (h : SameFor i s s') (k : Nat) : s.inTake k = s'.inTake k := congrArg (List.take k) h.inSlice

/-- The same response ends both, where nothing else is written. -/
theorem respond (h : SameFor i s s') (c : Nat) (out : List Byte) (sig : Signal) (r : Word) :
    SameEnd i (s.respond c out sig r) (s'.respond c out sig r) :=
  ⟨rfl, fun u hu => by simpa using h.regs u hu⟩

theorem answerStatus (h : SameFor i s s') (v : Option Word) : SameEnd i (s.answerStatus v) (s'.answerStatus v) := by
  cases v with
  | none => exact h.respond _ _ _ _
  | some v => exact h.respond _ _ _ _

end SameFor

/-- The same write to the diagnostic scrambler ends a diagnostic command in the same way. -/
theorem SameEnd.setDiagScr {i : Instr} (hi : unitOf i = some .diagnostic) (s s' : State) (v : ScrState) (c : Nat)
    (out : List Byte) (sig : Signal) (r : Word) :
    SameEnd i ((s.setDiagScr v).respond c out sig r) ((s'.setDiagScr v).respond c out sig r) := by
  refine ⟨rfl, fun u hu => ?_⟩
  cases hi.symm.trans hu
  rfl

/-- Likewise the encoder unit, written whole. -/
theorem SameEnd.commitEnc {i : Instr} (hi : unitOf i = some .encoder) (s s' : State) (p : EncUnit × Response) :
    SameEnd i (s.commitEnc p) (s'.commitEnc p) := by
  refine ⟨rfl, fun u hu => ?_⟩
  cases hi.symm.trans hu
  rfl

/-- Likewise the decoder unit, written whole. -/
theorem SameEnd.commitDec {i : Instr} (hi : unitOf i = some .decoder) (s s' : State) (p : DecUnit × Response) :
    SameEnd i (s.commitDec p) (s'.commitDec p) := by
  refine ⟨rfl, fun u hu => ?_⟩
  cases hi.symm.trans hu
  rfl

/-- FRAME.BUILD's end depends on the configuration, `IN` and `CAP` (R570). -/
theorem execFrameBuild_sameEnd {type gid sid : Byte} {s s' t t' : State} (h : SameFor (.frameBuild type gid sid) s s')
    (ht : execFrameBuild type gid sid s = .next t) (ht' : execFrameBuild type gid sid s' = .next t') :
    SameEnd (.frameBuild type gid sid) t t' := by
  simp only [execFrameBuild, h.cfg, h.n, h.m, h.inTake] at ht ht'
  split at ht
  next hroom =>
    rw [if_pos hroom] at ht'
    cases ht; cases ht'
    exact h.respond _ _ _ _
  next hroom =>
    rw [if_neg hroom] at ht'
    cases ht; cases ht'
    exact .setDiagScr rfl _ _ _ _ _ _ _

/-- FRAME.PARSE's end depends on the configuration, `IN` and `CAP` (R571). -/
theorem execFrameParse_sameEnd {sh : BitVec 3} {o : BitVec 16} {s s' t t' : State} (h : SameFor (.frameParse sh o) s s')
    (ht : execFrameParse sh o s = .next t) (ht' : execFrameParse sh o s' = .next t') :
    SameEnd (.frameParse sh o) t t' := by
  simp only [execFrameParse, h.cfg, h.n, h.m, h.inSlice] at ht ht'
  split at ht
  next hroom =>
    rw [if_pos hroom] at ht'
    cases ht; cases ht'
    exact h.respond _ _ _ _
  next hroom =>
    rw [if_neg hroom] at ht'
    cases hp : frameParse s'.cfg s'.inSlice o.toNat sh.toNat with
    | none =>
      simp only [hp] at ht ht'
      cases ht; cases ht'
      exact h.respond _ _ _ _
    | some p =>
      simp only [hp] at ht ht'
      cases ht; cases ht'
      exact .setDiagScr rfl _ _ _ _ _ _ _

/-- SYNC.SEARCH's end depends on the configuration and `IN` (R610). -/
theorem execSyncSearch_sameEnd {s s' t t' : State} (h : SameFor .syncSearch s s')
    (ht : execSyncSearch s = .next t) (ht' : execSyncSearch s' = .next t') : SameEnd .syncSearch t t' := by
  simp only [execSyncSearch, h.cfg, h.n, h.inSlice] at ht ht'
  split at ht
  next => cases ht
  next hlen =>
    rw [if_neg hlen] at ht'
    cases hp : syncSearch s'.cfg s'.inSlice with
    | none =>
      simp only [hp] at ht ht'
      cases ht; cases ht'
      exact h.respond _ _ _ _
    | some p =>
      simp only [hp] at ht ht'
      cases ht; cases ht'
      exact h.respond _ _ _ _

/-- A command ends the same in two states that look the same to it: no other unit and no earlier response is read. -/
theorem exec_sameEnd {i : Instr} {s s' t t' : State} (h : SameFor i s s') (ht : exec i s = .next t)
    (ht' : exec i s' = .next t') : SameEnd i t t' := by
  cases i with
  | frameBuild type gid sid => exact execFrameBuild_sameEnd h ht ht'
  | frameParse sh o => exact execFrameParse_sameEnd h ht ht'
  | syncSearch => exact execSyncSearch_sameEnd h ht ht'
  | nop | hamEnc nib | hamDec cw => cases ht; cases ht'; exact h.respond _ _ _ _
  | crc32 =>
    cases ht; cases ht'
    rw [h.n, h.inSlice]
    exact h.respond _ _ _ _
  | scrReset =>
    cases ht; cases ht'
    rw [h.cfg]
    exact .setDiagScr rfl _ _ _ _ _ _ _
  | scrNext =>
    cases ht; cases ht'
    have hscr : s.diagScr = s'.diagScr := h.regs .diagnostic rfl
    rw [hscr]
    exact .setDiagScr rfl _ _ _ _ _ _ _
  | scrProcess rst =>
    cases ht; cases ht'
    have hscr : s.diagScr = s'.diagScr := h.regs .diagnostic rfl
    have hfrom : scrProcessFrom rst s = scrProcessFrom rst s' := by simp only [scrProcessFrom, h.cfg, hscr]
    simp only [h.n, h.m, h.inTake, hfrom]
    exact .setDiagScr rfl _ _ _ _ _ _ _
  | encReset =>
    cases ht; cases ht'
    rw [h.cfg]
    exact .commitEnc rfl _ _ _
  | encFeed =>
    cases ht; cases ht'
    have henc : s.enc = s'.enc := h.regs .encoder rfl
    rw [h.cfg, henc, h.inSlice, h.m]
    exact .commitEnc rfl _ _ _
  | encStat idx =>
    cases ht; cases ht'
    have henc : s.enc = s'.enc := h.regs .encoder rfl
    rw [henc]
    exact h.answerStatus _
  | decReset =>
    cases ht; cases ht'
    rw [h.cfg]
    exact .commitDec rfl _ _ _
  | decFeed =>
    cases ht; cases ht'
    have hdec : s.dec = s'.dec := h.regs .decoder rfl
    rw [h.cfg, hdec, h.inSlice, h.m]
    exact .commitDec rfl _ _ _
  | decStat idx =>
    cases ht; cases ht'
    have hdec : s.dec = s'.dec := h.regs .decoder rfl
    rw [hdec]
    exact h.answerStatus _

/-! ### Either order -/

/-- A command to another unit that ran in between is not seen: `i` finds its configuration, its slice and capacity, and
its unit as they were. -/
theorem SameFor.after_other {i j : Instr} {s u : State} {a b : List Byte} {m n : Nat} (hne : unitOf i ≠ unitOf j)
    (hj : exec j { s with inSlice := b, cap := n } = .next u) :
    SameFor i { s with inSlice := a, cap := m } { u with inSlice := a, cap := m } where
  cfg := (exec_interface hj).1.symm
  inSlice := rfl
  cap := rfl
  regs v hv := by
    have hkept := exec_regs_of_ne (u := v) hj (hv ▸ hne.symm)
    simpa using hkept.symm

/-- Each unit ends the same in either order: the one a command is addressed to by `exec_sameEnd`, any other by its frame. -/
theorem regs_commute {i j : Instr} {a b : List Byte} {m n : Nat} {s t1 t2 u1 u2 : State}
    (hne : unitOf i ≠ unitOf j)
    (hi : exec i { s with inSlice := a, cap := m } = .next t1)
    (hij : exec j { t1 with inSlice := b, cap := n } = .next t2)
    (hj : exec j { s with inSlice := b, cap := n } = .next u1)
    (hji : exec i { u1 with inSlice := a, cap := m } = .next u2) (v : CmdUnit) : t2.regs v = u2.regs v := by
  by_cases hvi : unitOf i = some v
  · calc t2.regs v = t1.regs v := by simpa using exec_regs_of_ne hij (hvi ▸ hne.symm)
      _ = u2.regs v := (exec_sameEnd (.after_other hne hj) hi hji).2 v hvi
  by_cases hvj : unitOf j = some v
  · calc t2.regs v = u1.regs v := ((exec_sameEnd (.after_other hne.symm hi) hj hij).2 v hvj).symm
      _ = u2.regs v := by simpa using (exec_regs_of_ne hji hvi).symm
  · calc t2.regs v = t1.regs v := by simpa using exec_regs_of_ne hij hvj
      _ = s.regs v := by simpa using exec_regs_of_ne hi hvi
      _ = u1.regs v := by simpa using (exec_regs_of_ne hj hvj).symm
      _ = u2.regs v := by simpa using (exec_regs_of_ne hji hvi).symm

/-- Settles O12: neither command sees whether the other has run. -/
theorem commandsToDifferentUnitsCommute : Obligations.CommandsToDifferentUnitsCommute := by
  intro i j a b m n s t1 t2 u1 u2 hne hi hij hj hji
  have hregs := regs_commute hne hi hij hj hji
  exact ⟨(exec_sameEnd (.after_other hne hj) hi hji).1, (exec_sameEnd (.after_other hne.symm hi) hj hij).1.symm,
    hregs .encoder, hregs .decoder, hregs .diagnostic⟩

end Sys2Proof.Machine
end

section
/-! PROOFS. The command word (30_encoding.md R301 to R304, R311, R313). A command is read off its opcode and its operand
fields, and those are its used bits: a word decodes to a command exactly when, reserved bits apart, it is the word the
encoder writes for it. -/

namespace Sys2Proof

open Sys2Proof.Laws

/-! ### The fields of a word -/

@[simp] theorem fieldA8_packWord (op a8 b2 b3 : BitVec 8) : fieldA8 (packWord op a8 b2 b3) = a8 := by
  ext k hk
  interval_cases k <;> simp [fieldA8, packWord]

@[simp] theorem fieldB2_packWord (op a8 b2 b3 : BitVec 8) : fieldB2 (packWord op a8 b2 b3) = b2 := by
  ext k hk
  interval_cases k <;> simp [fieldB2, packWord]

@[simp] theorem fieldB3_packWord (op a8 b2 b3 : BitVec 8) : fieldB3 (packWord op a8 b2 b3) = b3 := by
  ext k hk
  interval_cases k <;> simp [fieldB3, packWord]

/-- A word is its four bytes, packed (R301). -/
theorem packWord_fields (w : Word) : packWord (fieldOp w) (fieldA8 w) (fieldB2 w) (fieldB3 w) = w := by
  ext k hk
  interval_cases k <;> simp [packWord, fieldOp, fieldA8, fieldB2, fieldB3]

/-- Words are masked byte by byte. -/
theorem packWord_and_packWord (op a8 b2 b3 op' a8' b2' b3' : BitVec 8) :
    packWord op a8 b2 b3 &&& packWord op' a8' b2' b3' =
      packWord (op &&& op') (a8 &&& a8') (b2 &&& b2') (b3 &&& b3') := by
  ext k hk
  interval_cases k <;> simp [packWord]

/-- Packed words are equal exactly when their four bytes are. -/
theorem packWord_inj (op a8 b2 b3 op' a8' b2' b3' : BitVec 8) :
    packWord op a8 b2 b3 = packWord op' a8' b2' b3' ↔ op = op' ∧ a8 = a8' ∧ b2 = b2' ∧ b3 = b3' := by
  refine ⟨fun h => ⟨?_, ?_, ?_, ?_⟩, by rintro ⟨rfl, rfl, rfl, rfl⟩; rfl⟩
  · simpa only [fieldOp_packWord] using congrArg fieldOp h
  · simpa only [fieldA8_packWord] using congrArg fieldA8 h
  · simpa only [fieldB2_packWord] using congrArg fieldB2 h
  · simpa only [fieldB3_packWord] using congrArg fieldB3 h

/-- A word with a 16-bit argument, as the bytes of its `B3:B2` (R301). -/
theorem packWord16_eq_packWord (op a8 : BitVec 8) (a16 : BitVec 16) :
    packWord16 op a8 a16 = packWord op a8 (a16.extractLsb' 0 8) (a16.extractLsb' 8 8) := by
  ext k hk
  interval_cases k <;> simp [packWord, packWord16]

/-- `B2` is the low half of `A16`, which overlaps it (R301). -/
theorem fieldA16_low (w : Word) : (fieldA16 w).extractLsb' 0 8 = fieldB2 w := by
  ext k hk
  interval_cases k <;> simp [fieldA16, fieldB2]

/-- `B3` is the high half of `A16` (R301). -/
theorem fieldA16_high (w : Word) : (fieldA16 w).extractLsb' 8 8 = fieldB3 w := by
  ext k hk
  interval_cases k <;> simp [fieldA16, fieldB3]

/-- `A16` holds a value exactly when `B2` and `B3` hold its halves (R301). -/
theorem fieldA16_eq_iff (w : Word) (a16 : BitVec 16) :
    fieldA16 w = a16 ↔ fieldB2 w = a16.extractLsb' 0 8 ∧ fieldB3 w = a16.extractLsb' 8 8 := by
  rw [← fieldA16_low, ← fieldA16_high]
  have hhalves (x : BitVec 16) : x.extractLsb' 8 8 ++ x.extractLsb' 0 8 = x :=
    BitVec.extractLsb'_append_extractLsb' (w := 8) (len := 8)
  refine ⟨by rintro rfl; exact ⟨rfl, rfl⟩, fun ⟨hlow, hhigh⟩ => ?_⟩
  rw [← hhalves (fieldA16 w), hlow, hhigh, hhalves]

/-- The low `k` bits of a byte, as an operand of `k` bits (R302). -/
theorem and_mask_eq_iff {k : Nat} {m : BitVec 8} (hm : m.toNat = 2 ^ k - 1) (x : BitVec 8) (y : BitVec k) :
    x &&& m = y.setWidth 8 ↔ x.extractLsb' 0 k = y := by
  have hy : y.toNat < 2 ^ 8 := by have := m.isLt; have := y.isLt; omega
  simp only [BitVec.toNat_eq, BitVec.toNat_and, hm, BitVec.toNat_setWidth, BitVec.extractLsb'_toNat,
    Nat.shiftRight_zero, Nat.and_two_pow_sub_one_eq_mod, Nat.mod_eq_of_lt hy]

/-- The low bit of a byte, as an operand of one bit (R302). -/
theorem and_one_eq_iff (x : BitVec 8) (b : Bool) : x &&& 1 = (BitVec.ofBool b).setWidth 8 ↔ x.getLsbD 0 = b := by
  rw [and_mask_eq_iff rfl]
  constructor
  · intro h; simpa using congrArg (BitVec.getLsbD · 0) h
  · rintro rfl; ext k hk; interval_cases k; simp

/-- A mask of a whole byte, for an operand of eight bits (R302). -/
theorem and_ff (x : BitVec 8) : x &&& 0xFF = x := BitVec.and_allOnes

/-- When a packed word is the bits of `w` under a mask that takes the whole opcode byte: field by field. -/
theorem packWord_eq_and_iff (op a8 b2 b3 m1 m2 m3 : BitVec 8) (w : Word) :
    packWord op a8 b2 b3 = w &&& packWord 0xFF m1 m2 m3 ↔
      fieldOp w = op ∧ fieldA8 w &&& m1 = a8 ∧ fieldB2 w &&& m2 = b2 ∧ fieldB3 w &&& m3 = b3 := by
  rw [← packWord_fields w, packWord_and_packWord, packWord_inj, and_ff, packWord_fields w]
  simp only [eq_comm]

/-! ### Decoding -/

/-- The opcodes of the table (R304). -/
abbrev definedOpcodes : List (BitVec 8) :=
  [0x00, 0x01, 0x02, 0x03, 0x04, 0x05, 0x06, 0x07, 0x08, 0x09, 0x10, 0x11, 0x12, 0x20, 0x21, 0x22]

/-- The command of the same row of R304 with the operands that `w` holds (R302). -/
def Instr.withOperandsOf (w : Word) : Instr → Instr
  | .scrProcess _ => .scrProcess ((fieldA8 w).getLsbD 0)
  | .hamEnc _ => .hamEnc ((fieldA8 w).extractLsb' 0 4)
  | .hamDec _ => .hamDec ((fieldA8 w).extractLsb' 0 7)
  | .frameBuild _ _ _ => .frameBuild (fieldA8 w) (fieldB2 w) (fieldB3 w)
  | .frameParse _ _ => .frameParse ((fieldA8 w).extractLsb' 0 3) (fieldA16 w)
  | .encStat _ => .encStat (fieldA8 w)
  | .decStat _ => .decStat (fieldA8 w)
  | i => i

/-- Every opcode of the table is some command's. -/
theorem exists_opcodeOf_eq {op : BitVec 8} (h : op ∈ definedOpcodes) : ∃ i, opcodeOf i = op := by
  simp only [List.mem_cons, List.not_mem_nil, or_false] at h
  rcases h with rfl | rfl | rfl | rfl | rfl | rfl | rfl | rfl | rfl | rfl | rfl | rfl | rfl | rfl | rfl | rfl
  exacts [⟨.nop, rfl⟩, ⟨.scrReset, rfl⟩, ⟨.scrNext, rfl⟩, ⟨.scrProcess false, rfl⟩, ⟨.hamEnc 0, rfl⟩,
    ⟨.hamDec 0, rfl⟩, ⟨.crc32, rfl⟩, ⟨.frameBuild 0 0 0, rfl⟩, ⟨.frameParse 0 0, rfl⟩, ⟨.syncSearch, rfl⟩,
    ⟨.encReset, rfl⟩, ⟨.encFeed, rfl⟩, ⟨.encStat 0, rfl⟩, ⟨.decReset, rfl⟩, ⟨.decFeed, rfl⟩, ⟨.decStat 0, rfl⟩]

/-- The row is selected by the opcode alone, the operands are the word's fields (R302, R304). -/
theorem decode_of_opcode {w : Word} {i : Instr} (hop : fieldOp w = opcodeOf i) :
    decode w = .ok (i.withOperandsOf w) := by
  cases i <;> (unfold decode; rw [hop]; rfl)

/-- A word whose opcode is not in the table is rejected (R311). -/
theorem decode_of_undefined {w : Word} (hop : fieldOp w ∉ definedOpcodes) :
    decode w = .error (.undefinedOpcode (fieldOp w)) := by
  simp only [List.mem_cons, List.not_mem_nil, or_false, not_or] at hop
  simp only [decode, hop, if_false]

/-- What the decoder reads: the opcode, and each operand in its field (R302, R304). -/
theorem decode_eq_ok_iff_fields (w : Word) (i : Instr) :
    decode w = .ok i ↔ fieldOp w = opcodeOf i ∧ i.withOperandsOf w = i := by
  constructor
  · intro h
    by_cases hmem : fieldOp w ∈ definedOpcodes
    · obtain ⟨j, hj⟩ := exists_opcodeOf_eq hmem
      rw [decode_of_opcode hj.symm] at h
      cases h
      cases j <;> exact ⟨hj.symm, rfl⟩
    · rw [decode_of_undefined hmem] at h
      cases h
  · rintro ⟨hop, hi⟩
    rw [decode_of_opcode hop, hi]

/-- What the encoder writes, on the used bits: the opcode, and each operand in its field (R301, R302, R313). The masks
of `usedBits` are split into bytes here, one mask for each row of R302. -/
theorem encode_eq_and_iff_fields (w : Word) (i : Instr) :
    encode i = w &&& i.usedBits ↔ fieldOp w = opcodeOf i ∧ i.withOperandsOf w = i := by
  cases i with
  | nop | scrReset | scrNext | crc32 | syncSearch | encReset | encFeed | decReset | decFeed =>
    exact (packWord_eq_and_iff _ _ _ _ 0 0 0 w).trans (by simp [opcodeOf, Instr.withOperandsOf])
  | scrProcess rst =>
    exact (packWord_eq_and_iff _ _ _ _ 0x01 0 0 w).trans
      (by rw [and_one_eq_iff]; simp [opcodeOf, Instr.withOperandsOf])
  | hamEnc nib =>
    exact (packWord_eq_and_iff _ _ _ _ 0x0F 0 0 w).trans
      (by rw [and_mask_eq_iff rfl]; simp [opcodeOf, Instr.withOperandsOf])
  | hamDec cw =>
    exact (packWord_eq_and_iff _ _ _ _ 0x7F 0 0 w).trans
      (by rw [and_mask_eq_iff rfl]; simp [opcodeOf, Instr.withOperandsOf])
  | encStat idx | decStat idx =>
    exact (packWord_eq_and_iff _ _ _ _ 0xFF 0 0 w).trans (by rw [and_ff]; simp [opcodeOf, Instr.withOperandsOf])
  | frameBuild type gid sid =>
    exact (packWord_eq_and_iff _ _ _ _ 0xFF 0xFF 0xFF w).trans
      (by rw [and_ff, and_ff, and_ff]; simp [opcodeOf, Instr.withOperandsOf])
  | frameParse s o =>
    rw [encode, packWord16_eq_packWord]
    exact (packWord_eq_and_iff _ _ _ _ 0x07 0xFF 0xFF w).trans (by
      rw [and_mask_eq_iff rfl, and_ff, and_ff, ← fieldA16_eq_iff]; simp [opcodeOf, Instr.withOperandsOf])

/-- The one fact about decoding: a word decodes to a command exactly when its used bits are the command's word, whatever
its reserved bits (R303). -/
theorem decode_eq_ok_iff (w : Word) (i : Instr) : decode w = .ok i ↔ encode i = w &&& i.usedBits :=
  (decode_eq_ok_iff_fields w i).trans (encode_eq_and_iff_fields w i).symm

/-- The shape of R301 to R304, of every command's word. -/
theorem wordShape (i : Instr) : WordShape.Statement i := by
  cases i with
  | nop => exact WordShape.nop
  | scrReset => exact WordShape.scrReset
  | scrNext => exact WordShape.scrNext
  | scrProcess rst => exact WordShape.scrProcess rst
  | hamEnc nib => exact WordShape.hamEnc nib
  | hamDec cw => exact WordShape.hamDec cw
  | crc32 => exact WordShape.crc32
  | frameBuild type gid sid => exact WordShape.frameBuild type gid sid
  | frameParse s o => exact WordShape.frameParse s o
  | syncSearch => exact WordShape.syncSearch
  | encReset => exact WordShape.encReset
  | encFeed => exact WordShape.encFeed
  | encStat idx => exact WordShape.encStat idx
  | decReset => exact WordShape.decReset
  | decFeed => exact WordShape.decFeed
  | decStat idx => exact WordShape.decStat idx

/-- Where the reserved bits are clear, the used bits are the whole word (R303). -/
theorem and_usedBits_of_clear {i : Instr} {w : Word} (h : reservedClear i w = true) : w &&& i.usedBits = w := by
  rw [reservedClear_iff] at h
  ext k hk
  simpa [hk] using congrArg (BitVec.getLsbD · k) h

/-- Settles O2: where the reserved bits are clear, as they are in what the encoder writes, the used bits are the word. -/
theorem decodeAndEncodeAgree : Obligations.DecodeAndEncodeAgree := by
  constructor
  · intro i
    have hclear : reservedClear i (encode i) = true := (wordShape i).2
    rw [decode_eq_ok_iff, and_usedBits_of_clear hclear]
  · intro w i hdec hclear
    rw [(decode_eq_ok_iff w i).1 hdec, and_usedBits_of_clear hclear]

/-- Settles O3: what a word decodes to is a matter of its used bits. -/
theorem reservedBitsAreIgnored : Obligations.ReservedBitsAreIgnored := by
  intro w w' i hdec hused
  rw [decode_eq_ok_iff] at hdec ⊢
  rw [hused, hdec]

/-- Settles O1: the decoder is run on each word. -/
theorem specWordsDecode : Obligations.SpecWordsDecode := ⟨rfl, rfl, rfl, rfl, rfl, rfl, rfl, rfl, rfl⟩

end Sys2Proof
end

section
/-! PROOFS. A presented command: what the step makes of it (20_memory.md R207, R210, 60_exceptions.md R906), and the
two diagnostic frame commands where they lack input or room (43_frame_format.md R570, R571). -/

namespace Sys2Proof.Machine

/-! ### A command the host presents -/

section
variable {s : State} {c : Command} {rest : List HostEvent}

/-- In a configuration that defines a block, a command in front is issued. -/
theorem fetch_command (hv : s.cfg.valid = true) (hp : s.pending = .command c :: rest) :
    fetch s = issue s c rest := by
  simp only [fetch, hv, hp, if_true]

/-- A command of the table within the host's contract runs on its `IN` and `CAP` (R300). -/
theorem issue_run {i : Instr} (hd : decode c.word = .ok i) (hc : contractBreach s.cfg c i = none) :
    issue s c rest = .run i (s.present c rest) := by
  simp only [issue, hd, hc]

/-- An undefined opcode ends the step, before the host's contract is looked at (R906). -/
theorem issue_undefined {r : DecodeReject} (hd : decode c.word = .error r) :
    issue s c rest = .ended (s.present c rest).answerIllegal := by
  simp only [issue, hd]

/-- A step runs the command that was fetched. -/
theorem step_run {i : Instr} {t : State} (h : fetch s = .run i t) : step s = exec i t := by
  simp only [step, h]

/-- A step whose event runs no command of the table ends where the event left the state. -/
theorem step_ended {t : State} (h : fetch s = .ended t) : step s = .next t := by
  simp only [step, h]

end

/-- Settles O4: the premises are the host's contract, and the step runs the command on the state that presents it. -/
theorem stepRunsTheDecodedCommand : Obligations.StepRunsTheDecodedCommand := by
  intro s c rest i hv hp hd hfree hlen
  have hcontract : contractBreach s.cfg c i = none := (contractBreach_none_iff s.cfg c i).2 ⟨hfree, hlen⟩
  exact step_run ((fetch_command hv hp).trans (issue_run hd hcontract))

/-- Settles O5: the decoder rejects the word, whatever the host's contract says of it. -/
theorem undefinedOpcodeAnswersIllegal : Obligations.UndefinedOpcodeAnswersIllegal := by
  intro s c rest hv hp hop
  exact step_ended ((fetch_command hv hp).trans (issue_undefined (decode_of_undefined hop)))

/-! ### The frame commands without input or room -/

/-- FRAME.BUILD needs `L` bytes of input and room for `F` (R570). -/
theorem execFrameBuild_notPerformed {type gid sid : Byte} {s : State} (h : s.n < s.cfg.L ∨ s.m < s.cfg.F) :
    execFrameBuild type gid sid s = .next s.answerNotPerformed := if_pos h

/-- FRAME.BUILD with enough of both answers the frame (R570). -/
theorem execFrameBuild_performed {type gid sid : Byte} {s : State} (hn : s.cfg.L ≤ s.n) (hm : s.cfg.F ≤ s.m) :
    execFrameBuild type gid sid s =
      .next ((s.setDiagScr (frameBuild s.cfg type gid sid (s.inTake s.cfg.L)).2).respond s.cfg.L
        (frameBuild s.cfg type gid sid (s.inTake s.cfg.L)).1 .cont 0) := if_neg (by omega)

/-- FRAME.PARSE needs room for `L` bytes (R571). -/
theorem execFrameParse_notPerformed {sh : BitVec 3} {o : BitVec 16} {s : State} (h : s.m < s.cfg.L) :
    execFrameParse sh o s = .next s.answerNotPerformed := if_pos h

/-- Settles O28: the check of input and room comes before everything else. -/
theorem frameCommandsWithoutRoomAreNotPerformed : Obligations.FrameCommandsWithoutRoomAreNotPerformed :=
  ⟨fun _ _ _ _ h => execFrameBuild_notPerformed h, fun _ _ _ h => execFrameParse_notPerformed h⟩

end Sys2Proof.Machine
end

section
/-! PROOFS. Every response keeps the bounds of 30_encoding.md R306 and R307. The encoder's feed step gives at most one
frame, of `F` bytes; the decoder's at most the flush of one group, of `G*L` bytes; each checks the capacity first. -/

namespace Sys2Proof.Machine

/-! ### Responses -/

/-- A response without output need only keep CONSUMED in bounds. -/
theorem Response.fits_of_no_output {c n m : Nat} {sig : Signal} {r : Word} (hc : c ≤ n) :
    (⟨c, [], sig, r⟩ : Response).fits n m := ⟨hc, Nat.zero_le _, fun _ => rfl⟩

/-- A response with CONT need only keep CONSUMED and OUT in bounds. -/
theorem Response.fits_of_cont {c n m : Nat} {out : List Byte} {r : Word} (hc : c ≤ n) (hout : out.length ≤ m) :
    (⟨c, out, .cont, r⟩ : Response).fits n m := ⟨hc, hout, fun h => nomatch h⟩

/-! ### The encoder's feed step -/

/-- An emitted frame has `F` bytes (43_frame_format.md R554, 46_encoder_fsm.md R703). -/
theorem encEmit_length {cfg : Config} (hv : cfg.valid = true) (type : FrameType) (gid sid : Byte) {p : List Byte}
    (hp : p.length = cfg.L) (e : EncUnit) : (encEmit cfg type gid sid p e).2.length = cfg.F := by
  rw [(encEmit_frame cfg type gid sid p e).1, frameBuild_length cfg _ gid sid p hv hp]

/-- A step of a repeat phase takes nothing and gives one frame (R708). -/
theorem encRepeat_fits {cfg : Config} {n m : Nat} (hv : cfg.valid = true) (hm : cfg.F ≤ m) (type : FrameType)
    (N : Nat) (after : EncState) (e : EncUnit) : (encRepeat cfg type N after e).2.fits n m :=
  Response.fits_of_cont (Nat.zero_le n) ((encEmit_length hv type 0 0 (zeros_length _) e).trans_le hm)

/-- The sentinel gives the group's PARITY frame or nothing (R712). -/
theorem encSentinel_fits {cfg : Config} {e : EncUnit} {k n m : Nat} (hv : cfg.valid = true)
    (hparity : e.parityAcc.length = cfg.L) (hk : k ≤ n) (hm : cfg.F ≤ m) :
    (encSentinel cfg e k).2.fits n m := by
  simp only [encSentinel]
  split
  · exact Response.fits_of_cont hk ((encEmit_length hv .parity _ _ hparity e).trans_le hm)
  · exact Response.fits_of_no_output hk

/-- A full group gives its PARITY frame (R714). -/
theorem encFullGroup_fits {cfg : Config} {e : EncUnit} {k n m : Nat} (hv : cfg.valid = true)
    (hparity : e.parityAcc.length = cfg.L) (hk : k ≤ n) (hm : cfg.F ≤ m) :
    (encFullGroup cfg e k).2.fits n m :=
  Response.fits_of_cont hk ((encEmit_length hv .parity _ _ hparity e).trans_le hm)

/-- An ordinary chunk gives its DATA frame (R713). -/
theorem encOrdinary_fits {cfg : Config} {e : EncUnit} {ch : List Byte} {k n m : Nat} (hv : cfg.valid = true)
    (hch : ch.length = cfg.L) (hk : k ≤ n) (hm : cfg.F ≤ m) :
    (encOrdinary cfg e ch k).2.fits n m :=
  Response.fits_of_cont hk ((encEmit_length hv .data _ _ hch _).trans_le hm)

/-- A DATA step takes what it stages and gives at most one frame (R711 to R714). -/
theorem encDataStep_fits {cfg : Config} {e : EncUnit} {m : Nat} (hv : cfg.valid = true) (h : EncInv cfg e)
    (inp : List Byte) (hm : cfg.F ≤ m) : (encDataStep cfg e inp).2.fits inp.length m := by
  have hk : encTaken cfg e inp ≤ inp.length := Nat.min_le_right _ _
  have hchunk : ((encStage cfg e inp).stage.take cfg.L).length = cfg.L := by
    rw [List.length_take, encStage_length inp h.stage_len h.stageCnt_le, Nat.min_self]
  rcases encDataStep_cases cfg e inp with ⟨-, heq⟩ | ⟨-, -, heq⟩ | ⟨-, -, -, heq⟩ | ⟨-, -, -, heq⟩ <;> rw [heq]
  · exact Response.fits_of_no_output hk
  · exact encSentinel_fits hv h.parity_len hk hm
  · exact encFullGroup_fits hv h.parity_len hk hm
  · exact encOrdinary_fits hv hchunk hk hm

/-- Every way ENC.FEED ends keeps the bounds (R721). -/
theorem encFeed_fits {cfg : Config} {e : EncUnit} (hv : cfg.valid = true) (h : EncInv cfg e) (inp : List Byte)
    (m : Nat) : (encFeed cfg e inp m).2.fits inp.length m := by
  rcases encFeed_cases cfg e inp m with ⟨-, heq⟩ | ⟨-, -, heq⟩ | ⟨hm, -, heq⟩ | ⟨hm, -, heq⟩ | ⟨hm, -, heq⟩ |
    ⟨hm, -, heq⟩ <;> rw [heq]
  · exact Response.fits_of_no_output le_rfl
  · exact Response.fits_of_no_output (Nat.zero_le _)
  · exact encRepeat_fits hv hm _ _ _ e
  · exact encRepeat_fits hv hm _ _ _ e
  · exact encRepeat_fits hv hm _ _ _ e
  · exact encDataStep_fits hv h inp hm

/-! ### The decoder's feed step -/

/-- A payload frame gives at most the flush of the previous group (R814). -/
theorem decFile_length_le {cfg : Config} {d : DecUnit} (h : DecInv cfg d) (p : Parsed) :
    (decFile cfg p d).2.length ≤ cfg.decMaxOut := by
  obtain ⟨_, _, _, _, heq, -, -, -, hout⟩ := decFile_frame cfg p d
  rw [heq]
  exact hout h.slot_bytes h.slot_len

/-- An accepted frame gives at most the flush of one group (R809, R811 to R815). -/
theorem decDispatch_length_le {cfg : Config} {d : DecUnit} (h : DecInv cfg d) (p : Parsed) :
    (decDispatch cfg p d).2.length ≤ cfg.decMaxOut := by
  unfold decDispatch
  cases FrameType.ofCode p.type with
  | none => exact Nat.zero_le _
  | some type =>
    cases type with
    | training | start => exact Nat.zero_le _
    | endFrame => exact groupFlush_length_le (d := { d with cntEnd := d.cntEnd + 1 }) h.slot_bytes h.slot_len
    | data =>
      simp only [decDataFrame]
      split
      · exact decFile_length_le (d := { d with cntData := d.cntData + 1 }) { h with } p
      · exact Nat.zero_le _
    | parity =>
      simp only [decParityFrame]
      split
      · exact decFile_length_le (d := { d with cntParity := d.cntParity + 1 }) { h with } p
      · exact Nat.zero_le _

/-- An attempt gives at most the flush of one group (R803). -/
theorem decAttempt_length_le {cfg : Config} {d : DecUnit} (hv : cfg.valid = true) (h : DecInv cfg d) :
    (decAttempt cfg d).2.length ≤ cfg.decMaxOut := by
  rcases decAttempt_cases cfg d with ⟨-, heq⟩ | ⟨o, s, -, ⟨-, heq⟩ | ⟨p, hparse, ⟨-, heq⟩ | ⟨-, heq⟩⟩⟩ <;>
    rw [heq]
  case inr.inr.inr =>
    exact decDispatch_length_le (h.discard _ (frameParse_ne_zero hparse (Config.seed_ne hv)) _) p
  all_goals exact Nat.zero_le _

/-- Every way DEC.FEED ends keeps the bounds (R821). -/
theorem decFeed_fits {cfg : Config} {d : DecUnit} (hv : cfg.valid = true) (h : DecInv cfg d) (inp : List Byte)
    (m : Nat) : (decFeed cfg d inp m).2.fits inp.length m := by
  have hk : decTaken cfg d inp ≤ inp.length := Nat.min_le_left _ _
  rcases decFeed_cases cfg d inp m with ⟨-, heq⟩ | ⟨-, -, heq⟩ | ⟨-, hm, heq⟩ <;> rw [heq]
  · exact Response.fits_of_no_output le_rfl
  · exact Response.fits_of_no_output hk
  · exact Response.fits_of_cont hk ((decAttempt_length_le hv (decAccept_decInv h inp)).trans hm)

/-! ### The diagnostic commands -/

/-- `t` holds a response that keeps the bounds of R306 and R307 for the command run in `s`. -/
def AnswersWithin (s t : State) : Prop := ∃ r, t.response = some r ∧ r.fits s.inSlice.length s.cap

/-- FRAME.BUILD takes `L` bytes and gives `F` (R570), and does nothing where either is not there. -/
theorem execFrameBuild_answersWithin {type gid sid : Byte} {s t : State} (hv : s.cfg.valid = true)
    (h : execFrameBuild type gid sid s = .next t) : AnswersWithin s t := by
  by_cases hroom : s.n < s.cfg.L ∨ s.m < s.cfg.F
  · cases (execFrameBuild_notPerformed hroom).symm.trans h
    exact ⟨_, rfl, Response.fits_of_no_output (Nat.zero_le _)⟩
  · obtain ⟨hn, hm⟩ : s.cfg.L ≤ s.n ∧ s.cfg.F ≤ s.m := by omega
    cases (execFrameBuild_performed hn hm).symm.trans h
    have hlen : (s.inTake s.cfg.L).length = s.cfg.L := List.length_take_of_le hn
    exact ⟨_, rfl, Response.fits_of_cont hn ((frameBuild_length s.cfg type gid sid _ hv hlen).trans_le hm)⟩

/-- FRAME.PARSE takes the slice and gives `L` bytes (R571), and does nothing where there is no room. -/
theorem execFrameParse_answersWithin {sh : BitVec 3} {o : BitVec 16} {s t : State}
    (h : execFrameParse sh o s = .next t) : AnswersWithin s t := by
  by_cases hroom : s.m < s.cfg.L
  · cases (execFrameParse_notPerformed hroom).symm.trans h
    exact ⟨_, rfl, Response.fits_of_no_output (Nat.zero_le _)⟩
  · rcases execFrameParse_next h with rfl | rfl | ⟨p, hp, rfl⟩
    · exact ⟨_, rfl, Response.fits_of_no_output (Nat.zero_le _)⟩
    · exact ⟨_, rfl, Response.fits_of_no_output le_rfl⟩
    · exact ⟨_, rfl, Response.fits_of_cont le_rfl
        ((frameParse_payload_length hp).trans_le (Nat.le_of_not_lt hroom))⟩

/-- SCR.PROCESS takes and gives `min(n, m)` bytes (R412). -/
theorem scrProcess_fits (s : State) (start : ScrState) (r : Word) :
    (⟨min s.n s.m, (scramble (s.inTake (min s.n s.m)) start).1, .cont, r⟩ : Response).fits s.n s.m := by
  refine Response.fits_of_cont (Nat.min_le_left _ _) ?_
  rw [scramble_length]
  exact (List.length_take_le _ _).trans (Nat.min_le_right _ _)

/-- Settles O10: the commands without output one by one, and those with output by the lemmas above. -/
theorem responsesKeepTheirBounds : Obligations.ResponsesKeepTheirBounds := by
  intro i s t h hexec
  have hv := h.cfg_valid
  cases i with
  | nop | scrReset | scrNext | hamEnc nib | hamDec cw | encReset | decReset =>
    cases hexec; exact ⟨_, rfl, Response.fits_of_no_output (Nat.zero_le _)⟩
  | crc32 => cases hexec; exact ⟨_, rfl, Response.fits_of_no_output le_rfl⟩
  | scrProcess rst => cases hexec; exact ⟨_, rfl, scrProcess_fits s _ _⟩
  | frameBuild type gid sid => exact execFrameBuild_answersWithin hv hexec
  | frameParse sh o => exact execFrameParse_answersWithin hexec
  | syncSearch =>
    obtain ⟨_, rfl⟩ := execSyncSearch_next hexec
    exact ⟨_, rfl, Response.fits_of_no_output le_rfl⟩
  | encStat idx =>
    cases hexec
    obtain ⟨_, _, heq⟩ := answerStatus_eq_respond s (encStatus s.enc idx)
    exact heq ▸ ⟨_, rfl, Response.fits_of_no_output (Nat.zero_le _)⟩
  | decStat idx =>
    cases hexec
    obtain ⟨_, _, heq⟩ := answerStatus_eq_respond s (decStatus s.dec idx)
    exact heq ▸ ⟨_, rfl, Response.fits_of_no_output (Nat.zero_le _)⟩
  | encFeed => cases hexec; exact ⟨_, rfl, encFeed_fits hv h.enc _ _⟩
  | decFeed => cases hexec; exact ⟨_, rfl, decFeed_fits hv h.dec _ _⟩

end Sys2Proof.Machine
end

section
/-! PROOFS. The scrambler (40_scrambler.md). A step shifts the state and feeds one bit in, so the state is a window of
seven bits on the sequence `a(k+7) = a(k+4) xor a(k)`, and a byte of keystream is the next eight bits of it (R401,
R402). The period 127 is prime: a nonzero state is on a cycle of exactly that length, and eight, the steps to a byte, is
prime to it (R405). -/

namespace Sys2Proof.Machine

open Function

/-! ### The sequence a state starts -/

/-- The state after one LFSR step (R401). -/
abbrev lfsrAdvance (s : ScrState) : ScrState := (lfsrStep s).2

/-- Bit `k` of the sequence that state `s` starts: the output of step `k` (R401). -/
def scrSeq (s : ScrState) (k : Nat) : Bool := (lfsrStep (lfsrAdvance^[k] s)).1

/-- A step shifts the state right (R401). -/
theorem lfsrAdvance_getLsbD_of_lt {i : Nat} (hi : i < 6) (s : ScrState) :
    (lfsrAdvance s).getLsbD i = s.getLsbD (i + 1) := by
  simp [lfsrAdvance, lfsrStep, hi, Nat.add_comm 1 i]

/-- A step feeds bit 0 xor bit 4 into bit 6 (R401). -/
theorem lfsrAdvance_getLsbD_six (s : ScrState) :
    (lfsrAdvance s).getLsbD 6 = (s.getLsbD 4 ^^ s.getLsbD 0) := by
  simp [lfsrAdvance, lfsrStep, Bool.xor_comm]

@[simp] theorem scrSeq_zero (s : ScrState) : scrSeq s 0 = s.getLsbD 0 := rfl

/-- The sequence of the next state is the sequence one place on. -/
@[simp] theorem scrSeq_lfsrAdvance (s : ScrState) (k : Nat) : scrSeq (lfsrAdvance s) k = scrSeq s (k + 1) := rfl

/-- The sequence of a later state is the sequence as many places on. -/
theorem scrSeq_iterate (s : ScrState) (j k : Nat) : scrSeq (lfsrAdvance^[j] s) k = scrSeq s (j + k) := by
  rw [scrSeq, scrSeq, Nat.add_comm, iterate_add_apply]

/-- The state is the first seven bits of its sequence. -/
theorem scrSeq_of_lt {i : Nat} (hi : i < 7) (s : ScrState) : scrSeq s i = s.getLsbD i := by
  induction i generalizing s with
  | zero => rfl
  | succ i ih => rw [← scrSeq_lfsrAdvance, ih (by omega), lfsrAdvance_getLsbD_of_lt (by omega)]

/-- The recurrence of the polynomial (R401). -/
theorem scrSeq_add_seven (s : ScrState) (k : Nat) : scrSeq s (k + 7) = (scrSeq s (k + 4) ^^ scrSeq s k) := by
  have hshift (j : Nat) : scrSeq s (k + j) = scrSeq (lfsrAdvance^[k] s) j := (scrSeq_iterate s k j).symm
  calc scrSeq s (k + 7)
      = (lfsrAdvance (lfsrAdvance^[k] s)).getLsbD 6 := by
        rw [hshift, ← scrSeq_lfsrAdvance, scrSeq_of_lt (by decide)]
    _ = (scrSeq s (k + 4) ^^ scrSeq s k) := by
        rw [lfsrAdvance_getLsbD_six, hshift, scrSeq_of_lt (by decide)]; rfl

/-! ### A byte of keystream -/

/-- The loop of R402 steps the LFSR once a round. -/
theorem scrBits_state (k : Nat) (byte : Byte) (s : ScrState) : (scrBits k byte s).2 = lfsrAdvance^[k] s := by
  induction k generalizing byte s with
  | zero => rfl
  | succ k ih => rw [scrBits, ih, iterate_succ_apply]

/-- The loop of R402 moves the byte up and puts the sequence below it, the latest bit lowest. -/
theorem scrBits_getLsbD {k i : Nat} (hi : i < 8) (byte : Byte) (s : ScrState) :
    (scrBits k byte s).1.getLsbD i = if i < k then scrSeq s (k - 1 - i) else byte.getLsbD (i - k) := by
  induction k generalizing byte s with
  | zero => rfl
  | succ k ih =>
    rw [scrBits, ih]
    rcases Nat.lt_trichotomy i k with hlt | rfl | hgt
    · have hplace : k - 1 - i + 1 = k + 1 - 1 - i := by omega
      rw [if_pos hlt, if_pos (by omega), scrSeq_lfsrAdvance, hplace]
    · simp [lfsrStep]
    · have hplace : i - k = i - (k + 1) + 1 := by omega
      have hbound : i - (k + 1) + 1 < 8 := by omega
      rw [if_neg (by omega), if_neg (by omega), hplace]
      simpa using fun _ => hbound

/-- A byte of keystream is eight LFSR steps (R402). -/
theorem scrAdvance_eq_iterate : scrAdvance = lfsrAdvance^[8] := funext (scrBits_state 8 0)

/-- The first of the eight bits is bit 7 of the byte (R402). -/
theorem scrNextByte_getLsbD {i : Nat} (hi : i < 8) (s : ScrState) :
    (scrNextByte s).1.getLsbD i = scrSeq s (7 - i) := by
  rw [scrNextByte, scrBits_getLsbD hi, if_pos hi]

/-- The byte determines the state it comes from, which is seven of its bits. -/
theorem scrNextByte_fst_injective : Injective fun s => (scrNextByte s).1 := by
  intro s t hbyte
  have hbit {x : ScrState} {i : Nat} (hi : i < 7) : x.getLsbD i = (scrNextByte x).1.getLsbD (7 - i) := by
    rw [scrNextByte_getLsbD (by omega), show 7 - (7 - i) = i by omega, scrSeq_of_lt hi]
  refine BitVec.eq_of_getLsbD_eq fun i hi => ?_
  rw [hbit hi, hbit hi]
  exact congrArg (BitVec.getLsbD · (7 - i)) hbyte

/-! ### The three commands -/

/-- SCR.RESET, its answer written out (R410). -/
theorem exec_scrReset (s : State) :
    exec .scrReset s = .next { s with diagScr := s.cfg.seed, response := some ⟨0, [], .cont, 0⟩ } := rfl

/-- SCR.NEXT, its answer written out (R411). -/
theorem exec_scrNext (s : State) :
    exec .scrNext s = .next { s with
      diagScr := scrAdvance s.diagScr
      response := some ⟨0, [], .cont, (scrNextByte s.diagScr).1.setWidth 32⟩ } := rfl

/-- SCR.PROCESS, its answer written out (R412). -/
theorem exec_scrProcess {rst : Bool} {s : State} {c : Nat} {r : List Byte × ScrState} (hc : min s.n s.m = c)
    (hr : scramble (s.inTake c) (scrProcessFrom rst s) = r) :
    exec (.scrProcess rst) s =
      .next { s with diagScr := r.2, response := some ⟨c, r.1, .cont, r.2.setWidth 32⟩ } := by
  subst hc hr; rfl

/-- SCR.PROCESS with room for the whole slice scrambles the whole slice (R412). -/
theorem exec_scrProcess_whole (rst : Bool) (s : State) {inp : List Byte} {r : List Byte × ScrState}
    (hr : scramble inp (scrProcessFrom rst s) = r) :
    exec (.scrProcess rst) { s with inSlice := inp, cap := inp.length } = .next { s with
      inSlice := inp
      cap := inp.length
      diagScr := r.2
      response := some ⟨inp.length, r.1, .cont, r.2.setWidth 32⟩ } :=
  exec_scrProcess (Nat.min_self _) ((congrArg (scramble · _) List.take_length).trans hr)

/-- Settles O15: the answer, and the row of R304 that opcode 0x01 selects. -/
theorem scrResetLoadsTheSeed : Obligations.ScrResetLoadsTheSeed :=
  ⟨exec_scrReset, fun _ hop => decode_of_opcode (i := .scrReset) hop⟩

/-- Settles O16: the sequence is the one whose window the state is. -/
theorem scrNextEmitsEightSequenceBits : Obligations.ScrNextEmitsEightSequenceBits := by
  intro s
  refine ⟨scrSeq s.diagScr, scrAdvance s.diagScr, (scrNextByte s.diagScr).1.setWidth 32, exec_scrNext s,
    fun i hi => scrSeq_of_lt hi _, scrSeq_add_seven _, fun i hi => ?_, fun i hi => ?_, fun i hi => ?_⟩
  · rw [scrAdvance_eq_iterate, ← scrSeq_of_lt hi, scrSeq_iterate]
  · rw [BitVec.getLsbD_setWidth, decide_eq_true (by omega : i < 32), Bool.true_and, scrNextByte_getLsbD hi]
  · rw [BitVec.getLsbD_setWidth, BitVec.getLsbD_of_ge _ i hi, Bool.and_false]

/-- Settles O17: `scramble` byte by byte, on the `min(n, m)` bytes taken. -/
theorem scrProcessXorsTheKeystream : Obligations.ScrProcessXorsTheKeystream := by
  intro rst s
  have hlen : (s.inTake (min s.n s.m)).length = min s.n s.m := List.length_take_of_le (Nat.min_le_left _ _)
  refine ⟨_, _, scrProcessFrom rst s, _, exec_scrProcess rfl rfl, rfl, ?_, rfl, ?_, fun i hi => ?_⟩
  · rw [scramble_length, hlen]
  · rw [scramble_state, hlen]
  · rw [scramble_getElem?, State.inTake, List.getElem?_take_of_lt hi]

/-- Settles O18: the second command starts from the state the first one leaves, as the second part of a concatenation
does. -/
theorem scrProcessSplitsAnywhere : Obligations.ScrProcessSplitsAnywhere := by
  intro rst s t t1 t2 a b h h1 h2
  have happend := scramble_append a b (scrProcessFrom rst s)
  cases (exec_scrProcess_whole rst s happend).symm.trans h
  cases (exec_scrProcess_whole rst s rfl).symm.trans h1
  cases (exec_scrProcess_whole false _ rfl).symm.trans h2
  exact ⟨rfl, _, _, _, rfl, rfl, rfl, rfl⟩

/-- Settles O19: both passes meet the same keystream, since the state does not depend on the data. -/
theorem scramblingIsSelfInverse : Obligations.ScramblingIsSelfInverse := by
  intro d s
  induction d generalizing s with
  | nil => rfl
  | cons b bs ih =>
    have hbyte (k : Byte) : b ^^^ k ^^^ k = b := by rw [BitVec.xor_assoc, BitVec.xor_self, BitVec.xor_zero]
    simp only [scramble_cons, hbyte, ih]

/-! ### The period -/

/-- A state that the LFSR does not move is 0: its bits are all equal, and bit 6 is the sum of two of them. -/
theorem lfsrAdvance_eq_self : ∀ s : ScrState, IsFixedPt lfsrAdvance s → s = 0 := by
  unfold IsFixedPt
  decide +kernel

/-- The LFSR never leaves the nonzero states (R400). -/
theorem lfsrAdvance_iterate_ne_zero {s : ScrState} (hs : s ≠ 0) (k : Nat) : lfsrAdvance^[k] s ≠ 0 := by
  induction k with
  | zero => exact hs
  | succ k ih => rw [iterate_succ_apply']; exact lfsrStep_ne_zero _ ih

/-- There are 127 nonzero states. -/
theorem card_nonzero_states : (Finset.univ.erase (0 : ScrState)).card = 127 := by
  rw [Finset.card_erase_of_mem (Finset.mem_univ _), Finset.card_univ, ← FinEnum.card_eq_fintypeCard,
    FinEnum.card_bitVec]
  rfl

/-- 127 is prime, so a nonzero state that comes back after 127 steps does not come back before. -/
theorem minimalPeriod_of_isPeriodicPt {s : ScrState} (hs : s ≠ 0) (hper : IsPeriodicPt lfsrAdvance 127 s) :
    minimalPeriod lfsrAdvance s = 127 :=
  have : Fact (Nat.Prime 127) := ⟨by norm_num⟩
  minimalPeriod_eq_prime hper fun hfix => hs (lfsrAdvance_eq_self s hfix)

/-- The states of an orbit of length 127 are distinct and nonzero, and there are no more nonzero states. -/
theorem exists_iterate_eq {s t : ScrState} (hs : s ≠ 0) (hmin : minimalPeriod lfsrAdvance s = 127) (ht : t ≠ 0) :
    ∃ k < 127, lfsrAdvance^[k] s = t := by
  have hmaps : Set.MapsTo (lfsrAdvance^[·] s) (Finset.range 127) (Finset.univ.erase (0 : ScrState)) :=
    fun k _ => by simpa using lfsrAdvance_iterate_ne_zero hs k
  have hinj : Set.InjOn (lfsrAdvance^[·] s) (Finset.range 127) := by
    simpa [hmin] using iterate_injOn_Iio_minimalPeriod (f := lfsrAdvance) (x := s)
  have hcard : (Finset.univ.erase (0 : ScrState)).card ≤ (Finset.range 127).card := by
    rw [card_nonzero_states, Finset.card_range]
  have hmem : t ∈ Finset.univ.erase (0 : ScrState) := Finset.mem_erase.2 ⟨ht, Finset.mem_univ t⟩
  obtain ⟨k, hk, heq⟩ := Finset.surjOn_of_injOn_of_card_le _ hmaps hinj hcard hmem
  exact ⟨k, Finset.mem_range.1 hk, heq⟩

/-- State 1 comes back after 127 steps: the one orbit that is computed. -/
theorem lfsrAdvance_isPeriodicPt_one : IsPeriodicPt lfsrAdvance 127 1 := by
  unfold IsPeriodicPt IsFixedPt
  decide +kernel

/-- The period of every nonzero state is 127, since the orbit of state 1 reaches it (R405). -/
theorem minimalPeriod_lfsrAdvance {s : ScrState} (hs : s ≠ 0) : minimalPeriod lfsrAdvance s = 127 := by
  have hone : minimalPeriod lfsrAdvance 1 = 127 :=
    minimalPeriod_of_isPeriodicPt (by decide) lfsrAdvance_isPeriodicPt_one
  obtain ⟨k, -, rfl⟩ := exists_iterate_eq (by decide) hone hs
  exact minimalPeriod_of_isPeriodicPt hs (lfsrAdvance_isPeriodicPt_one.apply_iterate k)

/-- Eight steps at a time have the same period, 8 and 127 having no common factor (R405). -/
theorem minimalPeriod_scrAdvance {s : ScrState} (hs : s ≠ 0) : minimalPeriod scrAdvance s = 127 := by
  rw [scrAdvance_eq_iterate, minimalPeriod_iterate_eq_div_gcd (by decide), minimalPeriod_lfsrAdvance hs]
  rfl

/-- A state of period `p` comes back after `p` steps and not before. -/
theorem iterate_of_minimalPeriod {f : ScrState → ScrState} {s : ScrState} {p : Nat} (hp : minimalPeriod f s = p) :
    f^[p] s = s ∧ ∀ k, 0 < k → k < p → f^[k] s ≠ s := by
  subst hp
  exact ⟨iterate_minimalPeriod, fun k hk hlt => not_isPeriodicPt_of_pos_of_lt_minimalPeriod hk.ne' hlt⟩

/-- Settles O20: the periods of the state, by step and by byte; and equal bytes come from equal states. -/
theorem lfsrHasPeriod127 : Obligations.LfsrHasPeriod127 := by
  intro s hs
  have hmin := minimalPeriod_lfsrAdvance hs
  obtain ⟨hback, hnotBefore⟩ := iterate_of_minimalPeriod hmin
  obtain ⟨hbackByte, hnotBeforeByte⟩ := iterate_of_minimalPeriod (minimalPeriod_scrAdvance hs)
  exact ⟨hback, hnotBefore, fun t ht => exists_iterate_eq hs hmin ht, hbackByte,
    fun k hk hlt heq => hnotBeforeByte k hk hlt (scrNextByte_fst_injective heq)⟩

end Sys2Proof.Machine
end

section
/-! PROOFS. Hamming(7,4) (41_hamming74.md). Two codewords differ in three bits at least, and the table of R453 names a
codeword within one bit of every received word; by the triangle inequality it is the only one (R452). The round trip,
the correction of one flipped bit and the miss on two or more (R455, R457) are readings of that one equivalence. -/

namespace Sys2Proof.Machine

/-! ### The distance -/

/-- The number of bits in which two 7-bit words differ (R452). -/
abbrev hamDist (x y : BitVec 7) : Nat := popcount ((x ^^^ y).setWidth 32)

/-- A one bit of `a xor b` is a one bit of `a` or of `b`. -/
theorem popBits_xor_le (k a b : Nat) : popBits k (a ^^^ b) ≤ popBits k a + popBits k b := by
  induction k generalizing a b with
  | zero => exact Nat.zero_le _
  | succ k ih =>
    have hlow : (a ^^^ b) % 2 = (a + b) % 2 := Nat.xor_mod_two_eq
    have hhigh : popBits k ((a ^^^ b) / 2) ≤ popBits k (a / 2) + popBits k (b / 2) := by
      rw [Nat.xor_div_two]; exact ih _ _
    simp only [popBits]
    omega

theorem hamDist_comm (x y : BitVec 7) : hamDist x y = hamDist y x := by
  rw [hamDist, BitVec.xor_comm]

theorem hamDist_triangle (x y z : BitVec 7) : hamDist x z ≤ hamDist x y + hamDist y z := by
  have hvia : x ^^^ z = (x ^^^ y) ^^^ (y ^^^ z) := by
    rw [BitVec.xor_assoc, ← BitVec.xor_assoc y, BitVec.xor_self, BitVec.zero_xor]
  rw [hamDist, hvia, BitVec.setWidth_xor, popcount, BitVec.toNat_xor]
  exact popBits_xor_le 32 _ _

/-! ### The code -/

/-- Distinct codewords differ in at least three bits (R452). -/
theorem three_le_hamDist_hamEnc : ∀ d d' : BitVec 4, d ≠ d' → 3 ≤ hamDist (hamEnc d) (hamEnc d') := by
  decide +kernel

/-- The table of R453 names a codeword within one bit of the received byte's bits 6:0. -/
theorem hamDist_hamEnc_hamDec : ∀ c : Byte, hamDist (hamEnc (hamDec c)) (c.setWidth 7) ≤ 1 := by
  decide +kernel

/-- `ham_dec(c)` is the one nibble whose codeword is within one bit of `c`'s bits 6:0 (R453). -/
theorem hamDec_eq_iff (c : Byte) (d : BitVec 4) : hamDec c = d ↔ hamDist (hamEnc d) (c.setWidth 7) ≤ 1 := by
  constructor
  · rintro rfl
    exact hamDist_hamEnc_hamDec c
  · intro hd
    by_contra hne
    have hfar := three_le_hamDist_hamEnc _ _ hne
    have hnear := hamDist_hamEnc_hamDec c
    have hsum := hamDist_triangle (hamEnc (hamDec c)) (c.setWidth 7) (hamEnc d)
    rw [hamDist_comm] at hd
    omega

/-- A transmitted codeword decodes to its nibble exactly when at most one of its bits 6:0 was flipped, whatever became
of its bit 7 (R457). -/
theorem hamDec_hamEnc_xor_iff (d : BitVec 4) (e : Byte) :
    hamDec ((hamEnc d).setWidth 8 ^^^ e) = d ↔ popcount ((e.setWidth 7).setWidth 32) ≤ 1 := by
  have hflips : hamEnc d ^^^ ((hamEnc d).setWidth 8 ^^^ e).setWidth 7 = e.setWidth 7 := by
    rw [BitVec.setWidth_xor, BitVec.setWidth_setWidth_of_le _ (by decide), BitVec.setWidth_eq, ← BitVec.xor_assoc,
      BitVec.xor_self, BitVec.zero_xor]
  rw [hamDec_eq_iff, hamDist, hflips]

/-- The error pattern of one flipped bit has one one bit (R455). -/
theorem popcount_oneBit_le : ∀ i < 7, popcount ((((1 : Byte) <<< i).setWidth 7).setWidth 32) ≤ 1 := by
  decide +kernel

/-- Settles O23: each guarantee is a distance from the codeword of `d` to the received word. -/
theorem hammingCorrectsOneBit : Obligations.HammingCorrectsOneBit := by
  refine ⟨fun d => ?roundTrip, fun d i hi => ?oneFlip, fun d c hc => ?bitSeven, fun d c hc => ?twoFlips⟩
  case roundTrip =>
    have hzero := (hamDec_hamEnc_xor_iff d 0#8).2 (by decide)
    rwa [BitVec.xor_zero] at hzero
  case oneFlip => exact (hamDec_hamEnc_xor_iff d _).2 (popcount_oneBit_le i hi)
  case bitSeven =>
    rw [hamDec_eq_iff, hc, hamDist, BitVec.xor_self]
    decide
  case twoFlips =>
    rw [Ne, hamDec_eq_iff, hamDist_comm]
    exact Nat.not_le.2 hc

/-! ### The two commands -/

/-- HAM.ENC, its answer written out (R460). -/
theorem exec_hamEnc (nib : BitVec 4) (s : State) :
    exec (.hamEnc nib) s = .next { s with response := some ⟨0, [], .cont, (hamEnc nib).setWidth 32⟩ } := by
  rw [← hamEncRom_eq]; rfl

/-- HAM.DEC, its answer written out (R461). -/
theorem exec_hamDec (cw : BitVec 7) (s : State) :
    exec (.hamDec cw) s =
      .next { s with response := some ⟨0, [], .cont, (hamDec (cw.setWidth 8)).setWidth 32⟩ } := by
  rw [← hamDecRom_eq]; rfl

/-- The codeword holds the nibble in bits 6:3 (R450). -/
theorem hamEnc_data (d : BitVec 4) : (hamEnc d).extractLsb' 3 4 = d := by
  ext i hi
  interval_cases i <;> simp [hamEnc]

/-- The codeword holds `p2`, `p1` and `p0` in bits 2, 1 and 0 (R450). -/
theorem hamEnc_parity (d : BitVec 4) :
    (hamEnc d).getLsbD 2 = (d.getLsbD 3 ^^ d.getLsbD 2 ^^ d.getLsbD 0) ∧
    (hamEnc d).getLsbD 1 = (d.getLsbD 3 ^^ d.getLsbD 1 ^^ d.getLsbD 0) ∧
    (hamEnc d).getLsbD 0 = (d.getLsbD 2 ^^ d.getLsbD 1 ^^ d.getLsbD 0) := by
  simp [hamEnc]

/-- Settles O21: the table of R451 is the function of R450, and zero-extension keeps its seven bits. -/
theorem hamEncAnswersTheCodeword : Obligations.HamEncAnswersTheCodeword := by
  intro nib s
  obtain ⟨hp2, hp1, hp0⟩ := hamEnc_parity nib
  refine ⟨_, exec_hamEnc nib s, ?_, ?_, ?_, ?_, ?_⟩
  · rw [BitVec.extractLsb'_setWidth_of_le (by decide), hamEnc_data]
  · rw [BitVec.getLsbD_setWidth, hp2]; rfl
  · rw [BitVec.getLsbD_setWidth, hp1]; rfl
  · rw [BitVec.getLsbD_setWidth, hp0]; rfl
  · ext i hi; simp

/-- Settles O22: the answer is `ham_dec` of the word, and the rest is what that is. -/
theorem hamDecAnswersTheNearestNibble : Obligations.HamDecAnswersTheNearestNibble := by
  intro cw s
  have hdec (d : BitVec 4) : hamDec (cw.setWidth 8) = d ↔ hamDist (hamEnc d) cw ≤ 1 := by
    rw [hamDec_eq_iff, BitVec.setWidth_setWidth_of_le _ (by decide), BitVec.setWidth_eq]
  exact ⟨_, exec_hamDec cw s, (hdec _).1 rfl, fun d' hd' => ((hdec d').2 hd').symm⟩

/-! ### Payloads -/

/-- A byte's two nibbles, shifted together, are the byte (R456). -/
theorem nibbles_or (b : Byte) :
    (b.extractLsb' 4 4).setWidth 8 <<< 4 ||| (b.extractLsb' 0 4).setWidth 8 = b := by
  rw [← BitVec.setWidth_append_eq_shiftLeft_setWidth_or, BitVec.setWidth_eq]
  exact BitVec.extractLsb'_append_extractLsb' (w := 4) (len := 4)

/-- A codeword pair with at most one flipped bit among bits 6:0 of each half decodes to its byte (R457). -/
theorem fecDecPair_corrects (b : Byte) {hi lo : Byte} (hhi : popcount ((hi.setWidth 7).setWidth 32) ≤ 1)
    (hlo : popcount ((lo.setWidth 7).setWidth 32) ≤ 1) :
    fecDecPair ((hamEnc (b.extractLsb' 4 4)).setWidth 8 ^^^ hi)
      ((hamEnc (b.extractLsb' 0 4)).setWidth 8 ^^^ lo) = b := by
  rw [fecDecPair, (hamDec_hamEnc_xor_iff _ hi).2 hhi, (hamDec_hamEnc_xor_iff _ lo).2 hlo, nibbles_or]

/-- Settles O24, pair by pair along the payload. -/
theorem fecCorrectsOneBitPerCodeword : Obligations.FecCorrectsOneBitPerCodeword := by
  intro payload
  induction payload with
  | nil => intro errs _ _; rfl
  | cons b bs ih =>
    intro errs hlen hfew
    match errs with
    | hi :: lo :: rest =>
      simp only [List.forall_mem_cons] at hfew
      obtain ⟨hhi, hlo, hrest⟩ := hfew
      have hrestLen : rest.length = 2 * bs.length := by
        simp only [List.length_cons] at hlen; omega
      change fecDecPair _ _ :: fecDec (xorBytes (fecEnc bs) rest) = b :: bs
      rw [fecDecPair_corrects b hhi hlo, ih rest hrestLen hrest]

end Sys2Proof.Machine
end

section
/-! PROOFS. CRC-32 (42_crc32.md). A round of the inner loop loses nothing: the top bit of the register it leaves is the
bit it shifted out, because the polynomial's top bit is set. So a byte's rounds are injective in the register, and what
one changed byte does to the register stays there whatever bytes follow (R501). -/

namespace Sys2Proof.Machine

open Function

/-! ### One round -/

/-- The bit shifted out comes back in the top bit (R501). -/
theorem crcShift_getLsbD_top (r : Word) : (crcShift r).getLsbD 31 = r.getLsbD 0 := by
  unfold crcShift
  cases r.getLsbD 0 <;> simp

/-- The bit shifted out and the rest of the register make the register. -/
theorem eq_of_ushiftRight_one_eq {q r : Word} (hlow : q.getLsbD 0 = r.getLsbD 0) (hrest : q >>> 1 = r >>> 1) :
    q = r := by
  refine BitVec.eq_of_getLsbD_eq fun i _ => ?_
  cases i with
  | zero => exact hlow
  | succ j => simpa [Nat.add_comm 1 j] using congrArg (·.getLsbD j) hrest

/-- The top bits tell that both rounds took the same branch, so the polynomial cancels. -/
theorem crcShift_injective : Injective crcShift := by
  intro q r h
  have hlow : q.getLsbD 0 = r.getLsbD 0 := by rw [← crcShift_getLsbD_top, h, crcShift_getLsbD_top]
  refine eq_of_ushiftRight_one_eq hlow ?_
  unfold crcShift at h
  rw [hlow] at h
  split at h
  · exact (BitVec.xor_left_inj _).1 h
  · exact h

/-! ### One byte, and a sequence -/

theorem crcRounds_eq_iterate (k : Nat) (r : Word) : crcRounds k r = crcShift^[k] r := by
  induction k generalizing r with
  | zero => rfl
  | succ k ih => exact ih (crcShift r)

theorem crcRounds_injective (k : Nat) : Injective (crcRounds k) := by
  rw [funext (crcRounds_eq_iterate k)]
  exact crcShift_injective.iterate k

/-- Different registers stay different when the same byte enters both. -/
theorem crcByte_left_injective (b : Byte) : Injective (crcByte · b) := fun _ _ h =>
  (BitVec.xor_left_inj _).1 (crcRounds_injective 8 h)

/-- Different bytes leave one register different. -/
theorem crcByte_right_injective (r : Word) : Injective (crcByte r) := fun x y h => by
  have hwide : x.setWidth 32 = y.setWidth 32 := (BitVec.xor_right_inj _).1 (crcRounds_injective 8 h)
  simpa using congrArg (BitVec.setWidth 8) hwide

/-- Different registers stay different when the same bytes enter both. -/
theorem foldl_crcByte_injective (data : List Byte) : Injective (data.foldl crcByte ·) := by
  induction data with
  | nil => exact injective_id
  | cons b bs ih => exact ih.comp (crcByte_left_injective b)

/-- Settles O26: the registers are equal before the changed byte, and would be different from it on. -/
theorem crcCatchesOneChangedByte : Obligations.CrcCatchesOneChangedByte := by
  intro a b x y h
  have hreg : (a ++ [x] ++ b).foldl crcByte 0xFFFFFFFF = (a ++ [y] ++ b).foldl crcByte 0xFFFFFFFF :=
    (BitVec.xor_left_inj _).1 h
  simp only [List.foldl_append, List.foldl_cons, List.foldl_nil] at hreg
  exact crcByte_right_injective _ (foldl_crcByte_injective b hreg)

/-! ### The command -/

/-- CRC32, its answer written out (R510). -/
theorem exec_crc32 (s : State) :
    exec .crc32 s = .next { s with response := some ⟨s.inSlice.length, [], .cont, crc32 s.inSlice⟩ } := rfl

/-- Undoing the final XOR leaves the register (R501). -/
theorem crc32_xor_final (data : List Byte) : crc32 data ^^^ 0xFFFFFFFF = data.foldl crcByte 0xFFFFFFFF := by
  rw [crc32, BitVec.xor_assoc, BitVec.xor_self, BitVec.xor_zero]

/-- The outer loop's body: the byte enters, and eight rounds follow (R501). -/
theorem crcByte_eq_iterate : crcByte = fun r b => crcShift^[8] (r ^^^ b.setWidth 32) :=
  funext₂ fun _ _ => crcRounds_eq_iterate 8 _

/-- Settles O25: the register is R501's, the two given values are computed, and the opcode selects the row. -/
theorem crc32AnswersTheReflectedCrc : Obligations.Crc32AnswersTheReflectedCrc := by
  refine ⟨fun s => ⟨_, exec_crc32 s, ?register⟩, ?checkValue, ?empty, fun _ hop => decode_of_opcode (i := .crc32) hop⟩
  case register =>
    rw [crc32_xor_final, crcByte_eq_iterate]; rfl
  case checkValue => decide +kernel
  case empty => decide

end Sys2Proof.Machine
end

section
/-! PROOFS. The bit stream of a buffer (20_memory.md R203) and the realigned copy of it (43_frame_format.md R565). A
realigned byte joins two neighbours of the buffer: its bit `r` is the stream's bit `r + s` from the first of them on. -/

namespace Sys2Proof.Machine

/-! ### Bits and bytes -/

/-- Bit `r` of byte `i`, the most significant first (R203). -/
theorem bitAt_eq_getLsbD (buf : List Byte) (i : Nat) {r : Nat} (hr : r < 8) :
    bitAt buf (8 * i + r) = (buf.getD i 0).getLsbD (7 - r) := by
  rw [bitAt, show (8 * i + r) / 8 = i by omega, show (8 * i + r) % 8 = r by omega]

/-- The stream determines the bytes. -/
theorem eq_of_bitAt_eq {a b : List Byte} (hlen : a.length = b.length)
    (hbits : ∀ p, p < 8 * b.length → bitAt a p = bitAt b p) : a = b := by
  refine List.ext_getElem hlen fun i ha hb => BitVec.eq_of_getLsbD_eq fun j hj => ?_
  have hbit := hbits (8 * i + (7 - j)) (by omega)
  rw [bitAt_eq_getLsbD _ _ (by omega), bitAt_eq_getLsbD _ _ (by omega), show 7 - (7 - j) = j by omega] at hbit
  simpa [ha, hb] using hbit

/-- The first bytes begin with the same stream. -/
theorem bitAt_take {buf : List Byte} {k p : Nat} (hp : p < 8 * k) : bitAt (buf.take k) p = bitAt buf p := by
  simp only [bitAt, List.getD_eq_getElem?_getD]
  rw [List.getElem?_take_of_lt (by omega)]

/-- Bytes that stand whole in a buffer have their bits there. -/
theorem bitsAt_append (a src b : List Byte) : BitsAt (a ++ src ++ b) (8 * a.length) src := by
  refine ⟨by simp only [List.length_append]; omega, fun i hi => ?_⟩
  rw [bitAt, bitAt, show (8 * a.length + i) / 8 = a.length + i / 8 by omega,
    show (8 * a.length + i) % 8 = i % 8 by omega]
  simp only [List.getD_eq_getElem?_getD, List.append_assoc]
  rw [List.getElem?_append_right (by omega), Nat.add_sub_cancel_left, List.getElem?_append_left (by omega)]

/-! ### Realigning -/

/-- The bits of two neighbouring bytes, joined at a shift, go on from the first into the second. -/
theorem getLsbD_joined (x y : Byte) {s r : Nat} (hs : s < 8) (hr : r < 8) :
    (x <<< s ||| y >>> (8 - s)).getLsbD (7 - r) =
      if r + s < 8 then x.getLsbD (7 - (r + s)) else y.getLsbD (7 - (r + s - 8)) := by
  rw [BitVec.getLsbD_or, BitVec.getLsbD_shiftLeft, BitVec.getLsbD_ushiftRight]
  split
  next h =>
    rw [BitVec.getLsbD_of_ge y _ (by omega), show 7 - r - s = 7 - (r + s) by omega]
    simp [show 7 - r < 8 by omega, show ¬ 7 - r < s by omega]
  next h =>
    rw [show 8 - s + (7 - r) = 7 - (r + s - 8) by omega]
    simp [show 7 - r < s by omega]

/-- A realigned byte joins two neighbours; at shift 0 nothing of the second is taken (R565). -/
theorem realign_getD {buf : List Byte} {o s i : Nat} (hi : i < (realign buf o s).length) :
    (realign buf o s).getD i 0 = buf.getD (o + i) 0 <<< s ||| buf.getD (o + i + 1) 0 >>> (8 - s) := by
  have hlen := realign_length buf o s
  by_cases hs : s = 0
  · subst hs
    have hnone (y : Byte) : y >>> 8 = 0 := BitVec.ushiftRight_eq_zero le_rfl
    simp [realign, hnone]
  · rw [if_neg hs] at hlen
    have hfirst : o + i < buf.length := by omega
    have hsecond : o + i + 1 < buf.length := by omega
    have hlong : ¬ buf.length ≤ o + 1 := by omega
    simp [realign, hs, hlong, List.getElem?_zipWith, hfirst, hsecond, Nat.add_right_comm o 1 i]

/-- Settles O31: the length is R565's, and byte `i` joins the bytes `o + i` and `o + i + 1`. -/
theorem realignStartsAtTheBitPosition : Obligations.RealignStartsAtTheBitPosition := by
  intro buf o s hs
  refine ⟨?_, fun p hp => ?_⟩
  · rw [realign_length]; split <;> rfl
  · obtain ⟨i, r, hr, rfl⟩ : ∃ i r, r < 8 ∧ p = 8 * i + r :=
      ⟨p / 8, p % 8, Nat.mod_lt _ (by decide), (Nat.div_add_mod p 8).symm⟩
    rw [bitAt_eq_getLsbD _ _ hr, realign_getD (by omega), getLsbD_joined _ _ hs hr]
    split
    · rw [← bitAt_eq_getLsbD _ _ (by omega)]; congr 1; omega
    · rw [← bitAt_eq_getLsbD _ _ (by omega)]; congr 1; omega

/-- Bytes whose bits stand in a buffer from bit `8*o + s` on are the first bytes of its realigned copy. -/
theorem realign_take_of_bitsAt {buf src : List Byte} {o s : Nat} (hs : s < 8)
    (h : BitsAt buf (8 * o + s) src) : (realign buf o s).take src.length = src := by
  obtain ⟨hroom, hbits⟩ := h
  obtain ⟨hlen, hstream⟩ := realignStartsAtTheBitPosition buf o s hs
  have hle : src.length ≤ (realign buf o s).length := by split at hlen <;> omega
  refine eq_of_bitAt_eq (List.length_take_of_le hle) fun p hp => ?_
  rw [bitAt_take hp, hstream p (by omega), hbits p hp]

end Sys2Proof.Machine
end

section
/-! PROOFS. Building a frame and parsing it (43_frame_format.md R550 to R571). Every field of the region comes back from
its coding, and descrambling undoes scrambling, so a parse answers the frame wherever the `4 + R` bytes from its sync
word on are the first of the realigned buffer; the bit stream says where that is (R568). -/

namespace Sys2Proof.Machine

/-! ### The layout of a frame -/

/-- After the preamble come the sync word, the scrambled region and the padding (R550, R560). -/
theorem frameBuild_drop_preamble (cfg : Config) (type gid sid : Byte) (p : List Byte) :
    (frameBuild cfg type gid sid p).1.drop cfg.P =
      be32 cfg.sync ++ ((scramble (frameRegion type gid sid p) cfg.seed).1 ++ zeros cfg.padLen) := by
  simp only [frameBuild, List.append_assoc]
  exact List.drop_left

/-- After the sync word come the scrambled region and the padding (R550, R560). -/
theorem frameBuild_drop_sync (cfg : Config) (type gid sid : Byte) (p : List Byte) :
    (frameBuild cfg type gid sid p).1.drop (cfg.P + 4) =
      (scramble (frameRegion type gid sid p) cfg.seed).1 ++ zeros cfg.padLen := by
  rw [← List.drop_drop, frameBuild_drop_preamble]
  exact List.drop_left' (be32_length _)

section
variable {cfg : Config} {p : List Byte} (type gid sid : Byte) (hp : p.length = cfg.L)
include hp

/-- The scrambled region has `R` bytes (R552). -/
theorem scrambled_region_length : (scramble (frameRegion type gid sid p) cfg.seed).1.length = cfg.R := by
  rw [scramble_length, frameRegion_length, hp, Config.R]

/-- The `R` bytes after the sync word are the scrambled region (R552, R560). -/
theorem frameBuild_region :
    ((frameBuild cfg type gid sid p).1.drop (cfg.P + 4)).take cfg.R =
      (scramble (frameRegion type gid sid p) cfg.seed).1 := by
  rw [frameBuild_drop_sync]
  exact List.take_left' (scrambled_region_length type gid sid hp)

/-- What is after the region is padding (R553, R560). -/
theorem frameBuild_padding :
    (frameBuild cfg type gid sid p).1.drop (cfg.P + 4 + cfg.R) = zeros cfg.padLen := by
  rw [← List.drop_drop, frameBuild_drop_sync]
  exact List.drop_left' (scrambled_region_length type gid sid hp)

/-- The sync word and the region stand whole in the frame. -/
theorem frameBuild_sync_region_length :
    (((frameBuild cfg type gid sid p).1.drop cfg.P).take (4 + cfg.R)).length = 4 + cfg.R := by
  have hlen := scrambled_region_length type gid sid hp
  refine List.length_take_of_le ?_
  simp only [frameBuild_drop_preamble, List.length_append, be32_length, hlen]
  omega

end

/-- Settles O27: the answer is the built frame, and each field is where the layout puts it. -/
theorem frameBuildAnswersTheLayout : Obligations.FrameBuildAnswersTheLayout := by
  intro type gid sid s hv hn hm
  have hlen : (s.inSlice.take s.cfg.L).length = s.cfg.L := List.length_take_of_le hn
  have hstate := frameBuild_state s.cfg type gid sid _ hlen
  refine ⟨(frameBuild s.cfg type gid sid (s.inSlice.take s.cfg.L)).1, ?answer,
    frameBuild_length s.cfg type gid sid _ hv hlen, ?preamble, ?sync, frameBuild_region type gid sid hlen,
    frameBuild_padding type gid sid hlen⟩
  case answer =>
    rw [← hstate]
    exact execFrameBuild_performed hn hm
  case preamble =>
    simp only [frameBuild, List.append_assoc]
    exact List.take_left
  case sync =>
    rw [frameBuild_drop_preamble]
    exact List.take_left' (be32_length _)

/-! ### Every field comes back -/

/-- A codeword pair decodes to its byte (R456). -/
theorem fecDec_fecEnc (payload : List Byte) : fecDec (fecEnc payload) = payload := by
  obtain ⟨hdec, -, -, -⟩ := hammingCorrectsOneBit
  induction payload with
  | nil => rfl
  | cons b bs ih =>
    change fecDecPair _ _ :: fecDec (fecEnc bs) = b :: bs
    rw [fecDecPair, hdec, hdec, nibbles_or, ih]

/-- Four bytes read as a big-endian field are packed as a command word's are, the last lowest (R204). -/
theorem fromBe32_eq_packWord (x : List Byte) :
    fromBe32 x = packWord (x.getD 3 0) (x.getD 2 0) (x.getD 1 0) (x.getD 0 0) := by
  have hreverse (a b c d : Word) : a ||| b ||| c ||| d = d ||| c ||| b ||| a := by ac_rfl
  exact hreverse _ _ _ _

/-- The four bytes of a big-endian field are its value (R204). -/
theorem fromBe32_be32 (v : Word) : fromBe32 (be32 v) = v :=
  (fromBe32_eq_packWord _).trans (packWord_fields v)

/-- Descrambling gives the data back and ends in the same state (R404, R561). -/
theorem scramble_scramble (d : List Byte) (s : ScrState) :
    scramble (scramble d s).1 s = (d, (scramble d s).2) := by
  refine Prod.ext (scramblingIsSelfInverse d s) ?_
  rw [scramble_state, scramble_state, scramble_length]

/-- A region parses to what it was made of, its CRC matching (R566). -/
theorem parseRegion_frameRegion {cfg : Config} (type gid sid : Byte) {payload : List Byte}
    (hp : payload.length = cfg.L) (sEnd : ScrState) :
    parseRegion cfg (frameRegion type gid sid payload) sEnd = ⟨type, gid, sid, payload, true, sEnd⟩ := by
  have hfec : (fecEnc payload).length = 2 * cfg.L := by rw [fecEnc_length, hp]
  have hpayload : ((frameRegion type gid sid payload).drop 3).take (2 * cfg.L) = fecEnc payload :=
    List.take_left' hfec
  have hcrc : ((frameRegion type gid sid payload).drop (3 + 2 * cfg.L)).take 4 = be32 (crc32 payload) := by
    rw [← List.drop_drop]
    exact (congrArg (List.take 4) (List.drop_left' hfec)).trans (List.take_of_length_le le_rfl)
  simp only [parseRegion, hpayload, hcrc, fecDec_fecEnc, fromBe32_be32, beq_self_eq_true]
  rfl

/-! ### Parsing -/

/-- A parse of enough realigned bytes reads the `R` bytes after the sync word (R566). -/
theorem frameParse_eq_some {cfg : Config} {buf : List Byte} {o s : Nat} (h : 4 + cfg.R ≤ (realign buf o s).length) :
    frameParse cfg buf o s =
      some (parseRegion cfg (scramble (((realign buf o s).drop 4).take cfg.R) cfg.seed).1
        (scramble (((realign buf o s).drop 4).take cfg.R) cfg.seed).2) :=
  if_neg (Nat.not_lt.2 h)

/-- A realigned buffer that begins with a frame's sync word and region parses to that frame. -/
theorem frameParse_of_realign_take {cfg : Config} {buf payload : List Byte} {o s : Nat} {type gid sid : Byte}
    (hp : payload.length = cfg.L)
    (h : (realign buf o s).take (4 + cfg.R) =
      ((frameBuild cfg type gid sid payload).1.drop cfg.P).take (4 + cfg.R)) :
    frameParse cfg buf o s =
      some ⟨type, gid, sid, payload, true, (frameBuild cfg type gid sid payload).2⟩ := by
  have hlong : 4 + cfg.R ≤ (realign buf o s).length := by
    have hlen := frameBuild_sync_region_length type gid sid hp
    rw [← h, List.length_take] at hlen
    omega
  have hregion : ((realign buf o s).drop 4).take cfg.R =
      (scramble (frameRegion type gid sid payload) cfg.seed).1 := by
    have hdrop := congrArg (List.drop 4) h
    rw [List.drop_take, List.drop_take, List.drop_drop, Nat.add_sub_cancel_left] at hdrop
    exact hdrop.trans (frameBuild_region type gid sid hp)
  rw [frameParse_eq_some hlong, hregion, scramble_scramble, parseRegion_frameRegion type gid sid hp]
  rfl

/-- Settles O32: at its own place the realigned buffer is the frame from its sync word on, and elsewhere the bit stream
says that it begins alike. -/
theorem frameRoundTrip : Obligations.FrameRoundTrip := by
  intro cfg type gid sid payload _ hp
  refine ⟨frameParse_of_realign_take hp rfl, fun buf o s hs hbits => frameParse_of_realign_take hp ?_⟩
  rw [← realign_take_of_bitsAt hs hbits, frameBuild_sync_region_length type gid sid hp]

/-! ### The parse command -/

section
variable {sh : BitVec 3} {o : BitVec 16} {s : State} (hm : s.cfg.L ≤ s.m)
include hm

/-- FRAME.PARSE with room answers SHORT where the parse does (R571). -/
theorem execFrameParse_short (h : frameParse s.cfg s.inSlice o.toNat sh.toNat = none) :
    execFrameParse sh o s = .next (s.respond s.n [] .cont shortResult) := by
  rw [execFrameParse, if_neg (Nat.not_lt.2 hm), h]

/-- FRAME.PARSE with room answers the parsed record (R571). -/
theorem execFrameParse_parsed {p : Parsed} (h : frameParse s.cfg s.inSlice o.toNat sh.toNat = some p) :
    execFrameParse sh o s =
      .next ((s.setDiagScr p.sEnd).respond s.n p.payload .cont (parseResult p.type p.gid p.sid p.crcOk)) := by
  rw [execFrameParse, if_neg (Nat.not_lt.2 hm), h]

end

/-- The length of what FRAME.PARSE realigns, its shift read as the operand (R565). -/
theorem realign_operand_length (buf : List Byte) (o : Nat) (sh : BitVec 3) :
    (realign buf o sh.toNat).length = buf.length - o - (if sh = 0 then 0 else 1) := by
  have hzero : sh.toNat = 0 ↔ sh = 0 := (BitVec.toNat_inj (y := 0#3))
  rw [realign_length, if_congr hzero rfl rfl]

/-- Settles O29: fewer than `4 + R` realigned bytes stand there, so the parse is SHORT. -/
theorem frameParseOfShortBuffer : Obligations.FrameParseOfShortBuffer := by
  intro sh o s hm hlen
  rw [← realign_operand_length] at hlen
  exact execFrameParse_short hm ((frameParse_none_iff _ _ _ _).2 hlen)

/-- The three header bytes are RESULT's low three bytes, packed as a command word's are (R571). -/
theorem parseResult_eq_packWord (type gid sid : Byte) (crcOk : Bool) :
    parseResult type gid sid crcOk = packWord type gid sid ((BitVec.ofBool crcOk).setWidth 8) := by
  cases crcOk <;> rfl

/-- The fields of a parse's RESULT: the header bytes, the CRC check at bit 24, and nothing above it (R308, R571). -/
theorem parseResult_fields (type gid sid : Byte) (crcOk : Bool) :
    (parseResult type gid sid crcOk).extractLsb' 0 8 = type ∧
    (parseResult type gid sid crcOk).extractLsb' 8 8 = gid ∧
    (parseResult type gid sid crcOk).extractLsb' 16 8 = sid ∧
    (parseResult type gid sid crcOk).getLsbD 24 = crcOk ∧
    (parseResult type gid sid crcOk).extractLsb' 25 7 = 0 := by
  refine ⟨?type, ?gid, ?sid, by simp [parseResult], ?above⟩
  case type => rw [parseResult_eq_packWord]; exact Laws.fieldOp_packWord _ _ _ _
  case gid => rw [parseResult_eq_packWord]; exact fieldA8_packWord _ _ _ _
  case sid => rw [parseResult_eq_packWord]; exact fieldB2_packWord _ _ _ _
  case above => ext i hi; interval_cases i <;> simp [parseResult]

/-- Settles O30: the command answers the record of the descrambled region, and RESULT holds its fields. -/
theorem frameParseAnswersTheRecord : Obligations.FrameParseAnswersTheRecord := by
  intro sh o s reg payload hm hlen hreg hpayload
  rw [← realign_operand_length] at hlen
  have hparse := frameParse_eq_some hlen
  have hstate := frameParse_state hparse
  have hpaylen := frameParse_payload_length hparse
  have hexec := execFrameParse_parsed hm hparse
  rw [← hreg] at hexec hpaylen hstate
  subst hpayload
  have hregLen : reg.length = s.cfg.R := by
    rw [hreg, scramble_length, List.length_take_of_le (by rw [List.length_drop]; omega)]
  have hhead {i : Nat} (hi : i < 3) : reg[i]? = some (reg.getD i 0) := by
    have hin : i < reg.length := by rw [hregLen, Config.R]; omega
    simp [hin]
  obtain ⟨htype, hgid, hsid, hcrc, hrest⟩ := parseResult_fields (reg.getD 0 0) (reg.getD 1 0) (reg.getD 2 0)
    (crc32 (fecDec ((reg.drop 3).take (2 * s.cfg.L))) == fromBe32 ((reg.drop (3 + 2 * s.cfg.L)).take 4))
  refine ⟨_, hstate ▸ hexec, hpaylen, ?type, ?gid, ?sid, ?crc, hrest⟩
  case type => exact (hhead (by decide)).trans (congrArg some htype.symm)
  case gid => exact (hhead (by decide)).trans (congrArg some hgid.symm)
  case sid => exact (hhead (by decide)).trans (congrArg some hsid.symm)
  case crc => exact hcrc.symm ▸ beq_iff_eq

end Sys2Proof.Machine
end

section
/-! PROOFS. One clean DATA frame of the reference configuration, from the frame builder to its slot. The search reads no
further than the preamble and the sync word, the same bits in every frame, before it finds the frame (44_sync_search.md
R605); the round trip of the formatter then gives the frame back (43_frame_format.md R568), and the decoder files it in
the current group (47_decoder_fsm.md R814). -/

namespace Sys2Proof.Machine

/-! ### The search finds the sync word -/

/-- What every frame begins with: the preamble and the sync word (43_frame_format.md R550). -/
def frameHead (cfg : Config) : List Byte := cfg.preamble ++ be32 cfg.sync

/-- A frame is its head and what the search does not reach. -/
theorem frameBuild_eq_frameHead_append (cfg : Config) (type gid sid : Byte) (p : List Byte) :
    (frameBuild cfg type gid sid p).1 =
      frameHead cfg ++ ((scramble (frameRegion type gid sid p) cfg.seed).1 ++ zeros cfg.padLen) := by
  simp only [frameBuild, frameHead, List.append_assoc]

/-- A window's distance depends on its bits alone, wherever they stand (44_sync_search.md R600, R602). -/
theorem syncDistance_of_bitsAt {cfg : Config} {buf src : List Byte} {p b : Nat} (h : BitsAt buf p src)
    (hb : b + 32 ≤ 8 * src.length) : syncDistance cfg buf (p + b) = syncDistance cfg src b := by
  obtain ⟨-, hbits⟩ := h
  refine List.countP_congr fun i hi => ?_
  rw [List.mem_range] at hi
  rw [Nat.add_assoc, hbits (b + i) (by omega)]

/-- No window that starts in the reference preamble is nearer than 11 bits to the sync word (R605). -/
theorem eleven_le_syncDistance_frameHead :
    ∀ b < 128, 11 ≤ syncDistance Config.reference (frameHead Config.reference) b := by decide +kernel

/-- The window at the reference sync word is the sync word (R605). -/
theorem syncDistance_frameHead_sync : syncDistance Config.reference (frameHead Config.reference) 128 = 0 := by
  decide +kernel

/-- A search from the first preamble byte of a reference frame finds its sync word (R605). -/
theorem syncSearch_reference_frame (type gid sid : Byte) (p : List Byte) :
    syncSearch Config.reference (frameBuild Config.reference type gid sid p).1 = some (16, 0) := by
  rw [frameBuild_eq_frameHead_append]
  generalize (scramble (frameRegion type gid sid p) Config.reference.seed).1 ++ zeros Config.reference.padLen = rest
  have hhead : BitsAt (frameHead Config.reference ++ rest) 0 (frameHead Config.reference) :=
    bitsAt_append [] (frameHead Config.reference) rest
  have hlen : (frameHead Config.reference).length = 20 := rfl
  have hdist {b : Nat} (hb : b ≤ 128) : syncDistance Config.reference (frameHead Config.reference ++ rest) b =
      syncDistance Config.reference (frameHead Config.reference) b := by
    have hsame := syncDistance_of_bitsAt (cfg := Config.reference) (b := b) hhead (by omega)
    rwa [Nat.zero_add] at hsame
  rw [syncSearch_some_iff]
  refine ⟨by decide, by rw [List.length_append]; omega, ?found, fun b hb => ?before⟩
  case found =>
    rw [syncHit_iff, hdist le_rfl, syncDistance_frameHead_sync]
    exact Nat.zero_le _
  case before =>
    rw [syncHit_false_iff, hdist (by omega)]
    exact lt_of_lt_of_le (by decide) (eleven_le_syncDistance_frameHead b (by omega))

/-! ### The decoder accepts the frame -/

section
variable {cfg : Config} {d : DecUnit} {p : Parsed}

/-- A feed step with room for its output attempts a frame (47_decoder_fsm.md R803, R821). -/
theorem decFeed_attempt {inp : List Byte} {m : Nat} (hs : d.state ≠ .finished) (hm : cfg.decMaxOut ≤ m) :
    decFeed cfg d inp m = ((decAttempt cfg (decAccept cfg d inp)).1,
      ⟨decTaken cfg d inp, (decAttempt cfg (decAccept cfg d inp)).2, .cont, 0⟩) := by
  rw [decFeed, if_neg hs, if_neg (Nat.not_lt.2 hm)]

/-- An empty window takes a slice it has the capacity for whole (R801). -/
theorem decTaken_of_empty {inp : List Byte} (hrx : d.rx = []) (hroom : inp.length ≤ cfg.rxcap) :
    decTaken cfg d inp = inp.length := by
  rw [decTaken, hrx]
  exact Nat.min_eq_left hroom

/-- The window is then the slice (R801). -/
theorem decAccept_of_empty {inp : List Byte} (hrx : d.rx = []) (hroom : inp.length ≤ cfg.rxcap) :
    decAccept cfg d inp = { d with rx := inp } := by
  rw [decAccept, decTaken_of_empty hrx hroom, hrx, List.nil_append, List.take_length]

/-- A frame that is found whole with a matching CRC leaves the window and is dispatched (R807, R809). -/
theorem decAttempt_accepted {o s : Nat} (hsync : syncSearch cfg d.rx = some (o, s))
    (hparse : frameParse cfg d.rx o s = some p) (hcrc : p.crcOk = true) :
    decAttempt cfg d = decDispatch cfg p { d with rx := d.rx.drop (o + 4 + cfg.R), scr := p.sEnd } := by
  simp only [decAttempt, hsync, hparse, decParsed, hcrc, if_true, decDiscard]

/-- A payload of the current group is stored at its slot without a flush (R814, 45_erasure_group.md R656). -/
theorem decFile_current (hvalid : d.curGroupValid = true) (hgid : d.curGroup = p.gid) (hsid : p.sid.toNat ≤ cfg.G) :
    decFile cfg p d =
      ({ d with slot := d.slot.set p.sid.toNat p.payload, present := d.present.set p.sid.toNat true }, []) := by
  have hsame : decChangesGroup d p.gid = false := by simp [decChangesGroup, hvalid, hgid]
  simp only [decFile, decAdopt, hsame, groupStore, if_pos hsid, Bool.false_eq_true, if_false]

/-- A DATA frame of the current group is counted and stored by a receiving decoder (R814). -/
theorem decDispatch_data_current (htype : p.type = 0x03) (hs : d.state = .receiving) (hvalid : d.curGroupValid = true)
    (hgid : d.curGroup = p.gid) (hsid : p.sid.toNat ≤ cfg.G) :
    decDispatch cfg p d =
      ({ d with
          slot := d.slot.set p.sid.toNat p.payload
          present := d.present.set p.sid.toNat true
          cntData := d.cntData + 1 }, []) := by
  have hcode : FrameType.ofCode 0x03 = some .data := rfl
  simp only [decDispatch, htype, hcode, decDataFrame, hs, if_true]
  exact decFile_current hvalid hgid hsid

end

/-- The scrambler state after a region of the reference configuration. -/
theorem scrAdvance_reference_region : scrAdvance^[Config.reference.R] Config.reference.seed = 0x09 := by
  decide +kernel

/-- A receiving decoder whose window is a whole DATA frame of the current group stores it and keeps the padding byte. -/
theorem decAttempt_reference_data {d : DecUnit} {sid : Byte} {payload : List Byte}
    (hp : payload.length = Config.reference.L) (hsid : sid.toNat ≤ Config.reference.G) (hs : d.state = .receiving)
    (hvalid : d.curGroupValid = true) (hrx : d.rx = (frameBuild Config.reference 0x03 d.curGroup sid payload).1) :
    decAttempt Config.reference d =
      ({ d with
          rx := [0]
          scr := 0x09
          slot := d.slot.set sid.toNat payload
          present := d.present.set sid.toNat true
          cntData := d.cntData + 1 }, []) := by
  have hsync : syncSearch Config.reference d.rx = some (16, 0) := hrx ▸ syncSearch_reference_frame _ _ _ _
  obtain ⟨hparse, -⟩ := frameRoundTrip Config.reference 0x03 d.curGroup sid payload reference_valid hp
  have hrest : d.rx.drop (16 + 4 + Config.reference.R) = [0] := by
    rw [hrx]; exact frameBuild_padding _ _ _ hp
  have hscr := (frameBuild_state Config.reference 0x03 d.curGroup sid payload hp).trans scrAdvance_reference_region
  rw [hscr, ← hrx] at hparse
  have haccepted := decAttempt_accepted hsync hparse rfl
  rw [hrest] at haccepted
  rw [haccepted]
  exact decDispatch_data_current rfl hs hvalid rfl hsid

/-- Settles O60: the empty window takes the frame whole, and the attempt stores it. -/
theorem cleanFrameReachesItsSlot : Obligations.CleanFrameReachesItsSlot := by
  intro s gid sid payload hcfg hp hsid hs hvalid hgid hrx hm hin
  have hlen : s.inSlice.length = 48 := by
    rw [hin]; exact frameBuild_length _ _ _ _ _ reference_valid hp
  have hroom : s.inSlice.length ≤ s.cfg.rxcap := by rw [hlen, hcfg]; decide
  have hactive : s.dec.state ≠ .finished := by rw [hs]; decide
  have hattempt := decAttempt_reference_data (d := { s.dec with rx := s.inSlice }) hp hsid hs hvalid
    (hin.trans (by rw [hgid]))
  have hfeed := decFeed_attempt (cfg := s.cfg) (inp := s.inSlice) hactive (hcfg ▸ hm : s.cfg.decMaxOut ≤ s.cap)
  rw [decAccept_of_empty hrx hroom, decTaken_of_empty hrx hroom, hcfg, hattempt, hlen, ← hcfg] at hfeed
  exact congrArg (fun p => Host.Outcome.next (s.commitDec p)) hfeed

end Sys2Proof.Machine
end

section
/-! PROOFS. The search and its command (44_sync_search.md R600 to R602, R605, R610). A buffer cut at a byte shows the
same windows, so a search that begins inside a reference frame's preamble meets the distances of the whole frame from
there on: none within tolerance before the sync word. -/

namespace Sys2Proof.Machine

/-! ### The search, told by distances -/

/-- The search finds nothing exactly when every window is beyond `T` (R602). -/
theorem syncSearch_eq_none_iff_distance (cfg : Config) (buf : List Byte) :
    syncSearch cfg buf = none ↔ ∀ b, b + 32 ≤ 8 * buf.length → cfg.T < syncDistance cfg buf b := by
  simp only [syncSearch_none_iff, syncHit_false_iff]

/-- The search finds the first window within `T` (R602). -/
theorem syncSearch_eq_some_iff_distance (cfg : Config) (buf : List Byte) (o s : Nat) :
    syncSearch cfg buf = some (o, s) ↔
      s < 8 ∧ 8 * o + s + 32 ≤ 8 * buf.length ∧ syncDistance cfg buf (8 * o + s) ≤ cfg.T ∧
        ∀ b, b < 8 * o + s → cfg.T < syncDistance cfg buf b := by
  simp only [syncSearch_some_iff, syncHit_iff, syncHit_false_iff]

/-! ### The command -/

/-- SYNC.SEARCH, its answer written out (R610). -/
theorem exec_syncSearch {s : State} (h : s.n < 2 ^ 28) :
    exec .syncSearch s =
      .next { s with response := some ⟨s.inSlice.length, [], .cont,
        (syncSearch s.cfg s.inSlice).elim 0 fun p => foundResult p.1 p.2⟩ } := by
  change execSyncSearch s = _
  rw [execSyncSearch, if_neg (Nat.not_le.2 h)]
  cases syncSearch s.cfg s.inSlice <;> rfl

/-- A match is announced in bit 31 (R610). -/
theorem foundResult_getLsbD_top (o s : Nat) : (foundResult o s).getLsbD 31 = true := by
  simp [foundResult]

/-- A position below `2^31` stands in bits 30:0 (R610). -/
theorem foundResult_position {o s : Nat} (h : 8 * o + s < 2 ^ 31) :
    ((foundResult o s).setWidth 31).toNat = 8 * o + s := by
  have htop : ((1 : Word) <<< 31).setWidth 31 = 0 := by decide
  rw [foundResult, BitVec.setWidth_or, htop, BitVec.ofNat_eq_ofNat, BitVec.zero_or, BitVec.toNat_setWidth,
    BitVec.toNat_ofNat]
  omega

/-- Settles O33: the answer is the search's, and the bound on the slice keeps the position clear of bit 31. -/
theorem syncSearchAnswersTheFirstPosition : Obligations.SyncSearchAnswersTheFirstPosition := by
  refine ⟨fun s hlen => ⟨_, exec_syncSearch hlen, ?_⟩, fun _ hop => decode_of_opcode (i := .syncSearch) hop⟩
  cases hfound : syncSearch s.cfg s.inSlice with
  | none =>
    have hfar := (syncSearch_eq_none_iff_distance _ _).1 hfound
    exact ⟨fun ⟨b, hb, hnear⟩ => absurd (hfar b hb) (Nat.not_lt.2 hnear), fun _ => rfl⟩
  | some p =>
    obtain ⟨o, sh⟩ := p
    obtain ⟨-, hin, hnear, hfirst⟩ := (syncSearch_eq_some_iff_distance _ _ _ _).1 hfound
    have hpos : ((foundResult o sh).setWidth 31).toNat = 8 * o + sh := foundResult_position (by omega)
    refine ⟨fun _ => ⟨foundResult_getLsbD_top o sh, ?_⟩, fun hfar => absurd (hfar _ hin) (Nat.not_lt.2 hnear)⟩
    simp only [Option.elim_some, hpos]
    exact ⟨hin, hnear, hfirst⟩

/-! ### Reference frames -/

/-- Dropping `k` bytes moves the stream by `8 * k` bits (20_memory.md R203). -/
theorem bitAt_drop (buf : List Byte) (k p : Nat) : bitAt (buf.drop k) p = bitAt buf (8 * k + p) := by
  rw [bitAt, bitAt, show (8 * k + p) / 8 = k + p / 8 by omega, show (8 * k + p) % 8 = p % 8 by omega]
  simp only [List.getD_eq_getElem?_getD, List.getElem?_drop]

/-- The windows move with the stream. -/
theorem syncDistance_drop (cfg : Config) (buf : List Byte) (k b : Nat) :
    syncDistance cfg (buf.drop k) b = syncDistance cfg buf (8 * k + b) := by
  simp only [syncDistance, bitAt_drop, Nat.add_assoc]

/-- The windows of a frame that start no later than its sync word do not depend on what the frame holds or on where it
stands. -/
theorem syncDistance_reference_frame (type gid sid : Byte) (payload before after : List Byte) {b : Nat}
    (hb : b ≤ 128) :
    syncDistance Config.reference (before ++ (frameBuild Config.reference type gid sid payload).1 ++ after)
      (8 * before.length + b) = syncDistance Config.reference (frameHead Config.reference) b := by
  have hlen : (frameHead Config.reference).length = 20 := rfl
  rw [frameBuild_eq_frameHead_append, ← List.append_assoc before, List.append_assoc _ _ after]
  exact syncDistance_of_bitsAt (bitsAt_append _ _ _) (by omega)

/-- Settles O34: the distances are those of the preamble and the sync word, and a search from preamble byte `k` meets
them from bit `8 * k` on. -/
theorem referenceFramesSyncAtTheirSyncWord : Obligations.ReferenceFramesSyncAtTheirSyncWord := by
  intro type gid sid payload before after k hp hk
  refine ⟨fun b hb => ?preamble, ?sync, ?search⟩
  case preamble =>
    rw [syncDistance_reference_frame _ _ _ _ _ _ hb.le]
    exact eleven_le_syncDistance_frameHead b hb
  case sync =>
    rw [syncDistance_reference_frame _ _ _ _ _ _ le_rfl, syncDistance_frameHead_sync]
  case search =>
    have hlen := frameBuild_length Config.reference type gid sid payload reference_valid hp
    have hdist {b : Nat} (hb : 8 * k + b ≤ 128) :=
      syncDistance_reference_frame type gid sid payload [] after hb
    simp only [List.nil_append, List.length_nil, Nat.mul_zero, Nat.zero_add] at hdist
    rw [← List.drop_append_of_le_length (by rw [hlen]; exact hk.le.trans (by decide)),
      syncSearch_eq_some_iff_distance]
    simp only [syncDistance_drop]
    refine ⟨by decide, ?inside, ?found, fun b hb => ?before⟩
    case inside =>
      have hF : Config.reference.F = 48 := rfl
      rw [List.length_drop, List.length_append]; omega
    case found =>
      rw [hdist (by omega), show 8 * k + (8 * (16 - k) + 0) = 128 by omega, syncDistance_frameHead_sync]
      exact Nat.zero_le _
    case before =>
      rw [hdist (by omega)]
      exact lt_of_lt_of_le (by decide) (eleven_le_syncDistance_frameHead _ (by omega))

end Sys2Proof.Machine
end

section
/-! PROOFS. The erasure group (45_erasure_group.md). XOR of payloads is associative and commutative, so the parity of a
group is one payload XOR the parity of the others, and XORing the others into it once more leaves that payload. On the
encoder's side each ordinary chunk extends the fold that defines the group's XOR. -/

namespace Sys2Proof.Machine

/-! ### XOR of payloads -/

theorem xorBytes_associative : Std.Associative xorBytes :=
  ⟨fun _ _ _ => List.ext_getElem (by simp [min_assoc]) fun i _ _ => by simp [xorBytes, BitVec.xor_assoc]⟩

theorem xorBytes_commutative : Std.Commutative xorBytes := ⟨fun _ _ => List.zipWith_comm_of_comm BitVec.xor_comm⟩

theorem xorBytes_zeros {x : List Byte} {L : Nat} (hx : x.length = L) : xorBytes x (zeros L) = x :=
  List.ext_getElem (by simp [hx]) fun i _ _ => by simp [xorBytes, zeros]

theorem xorBytes_self (x : List Byte) : xorBytes x x = zeros x.length :=
  List.ext_getElem (by simp) fun i _ _ => by simp [xorBytes, zeros]

/-- XORing a second time takes the payload out again. -/
theorem xorBytes_xorBytes_cancel {x y : List Byte} (h : x.length = y.length) : xorBytes (xorBytes x y) y = x := by
  rw [xorBytes_associative.assoc, xorBytes_self, xorBytes_zeros h]

/-- XORing payloads into `x` one by one is XORing their XOR into it. -/
theorem foldl_xorBytes {x : List Byte} {L : Nat} (hx : x.length = L) (ps : List (List Byte)) :
    ps.foldl xorBytes x = xorBytes x (xorAll L ps) := by
  rw [xorAll, ← List.foldl_assoc (ha := xorBytes_associative), xorBytes_zeros hx]

/-- The XOR of `L`-byte payloads has `L` bytes. -/
theorem xorAll_length {L : Nat} {ps : List (List Byte)} (h : ∀ p ∈ ps, p.length = L) : (xorAll L ps).length = L :=
  List.foldlRecOn (motive := fun r => r.length = L) ps xorBytes (zeros_length L) fun r hr p hp => by
    rw [xorBytes_length, hr, h p hp, Nat.min_self]

/-- The XOR of a group does not depend on the order of its payloads (R650). -/
theorem xorAll_perm {L : Nat} {ps qs : List (List Byte)} (h : ps.Perm qs) : xorAll L ps = xorAll L qs := by
  have := xorBytes_associative
  have := xorBytes_commutative
  exact h.foldl_op_eq

/-- The parity of a group recovers any one payload from the others (R650, R660 case 2). -/
theorem foldl_xorBytes_xorAll {L : Nat} {p : List Byte} {ps qs : List (List Byte)} (hperm : ps.Perm (p :: qs))
    (hlen : ∀ q ∈ ps, q.length = L) : qs.foldl xorBytes (xorAll L ps) = p := by
  have hp : p.length = L := hlen p (hperm.mem_iff.2 List.mem_cons_self)
  have hqs : (xorAll L qs).length = L := xorAll_length fun q hq => hlen q (hperm.mem_iff.2 (List.mem_cons_of_mem p hq))
  have hsplit : xorAll L ps = xorBytes p (xorAll L qs) := by
    rw [xorAll_perm hperm, xorAll, List.foldl_cons, xorBytes_commutative.comm, xorBytes_zeros hp, foldl_xorBytes hp]
  rw [foldl_xorBytes (xorAll_length hlen), hsplit, xorBytes_xorBytes_cancel (hp.trans hqs.symm)]

/-! ### A flush that rebuilds nothing -/

theorem DecUnit.has_iff (d : DecUnit) (i : Nat) : d.has i = true ↔ d.present[i]? = some true := by
  rw [DecUnit.has, List.getD_eq_getElem?_getD]
  cases d.present[i]? <;> simp

theorem DecUnit.has_eq (d : DecUnit) (i : Nat) : d.has i = (d.present[i]? == some true) := by
  rw [Bool.eq_iff_iff, d.has_iff, beq_iff_eq]

theorem DecUnit.slotAt_of_getElem? {d : DecUnit} {i : Nat} {p : List Byte} (h : d.slot[i]? = some p) :
    d.slotAt i = p := by
  rw [DecUnit.slotAt, List.getD_eq_getElem?_getD, h, Option.getD_some]

theorem presentData_eq (cfg : Config) (d : DecUnit) :
    presentData cfg d = (List.range cfg.G).filter fun i => d.present[i]? == some true :=
  List.filter_congr fun i _ => d.has_eq i

/-- Each data slot is present or missing. -/
theorem presentData_length_add (cfg : Config) (d : DecUnit) :
    (presentData cfg d).length + ((List.range cfg.G).filter fun i => d.present[i]? != some true).length = cfg.G := by
  have hsplit := List.length_eq_length_filter_add (l := List.range cfg.G) fun i => d.present[i]? == some true
  rwa [List.length_range, ← presentData_eq, eq_comm] at hsplit

/-- Settles O48: the number of missing slots, and the parity when it is one, choose the case of R660. -/
theorem groupFlushWithoutRebuilding : Obligations.GroupFlushWithoutRebuilding := by
  intro cfg d miss hmiss
  have hadd : (presentData cfg d).length + miss.length = cfg.G := hmiss ▸ presentData_length_add cfg d
  rw [← List.length_eq_zero_iff, Ne, ← List.length_eq_zero_iff, Ne, ← d.has_iff]
  rcases groupFlush_cases cfg d with ⟨hall, heq⟩ | ⟨hgap, hone, hpar, heq⟩ | ⟨hgap, hnot, heq⟩ <;> rw [heq]
  · have hnone : miss.length = 0 := by omega
    exact ⟨fun _ => rfl, by simp [hnone], fun _ => rfl⟩
  · have hsingle : miss.length = 1 := by omega
    simp [hsingle, hpar]
  · have hsome : miss.length ≠ 0 := by omega
    refine ⟨fun h => absurd h hsome, fun _ => ?_, fun _ => rfl⟩
    rw [← presentData_eq]
    rfl

/-! ### A flush that rebuilds a slot -/

theorem map_getD_range (ds : List (List Byte)) : (List.range ds.length).map (ds.getD · []) = ds :=
  List.ext_getElem (by simp) fun i _ hi => by simp [List.getD_eq_getElem?_getD, hi]

section
variable {cfg : Config} {d : DecUnit} {ds : List (List Byte)} {j : Nat}

/-- With data slot `j` alone missing, the slots present are the others. -/
theorem presentData_of_one_missing (hothers : ∀ i, i < cfg.G → i ≠ j → d.has i = true) (hj : d.has j = false) :
    presentData cfg d = (List.range cfg.G).erase j := by
  rw [List.nodup_range.erase_eq_filter, presentData]
  refine List.filter_congr fun i hi => ?_
  by_cases hij : i = j
  · simp [hij, hj]
  · simp [hij, hothers i (List.mem_range.1 hi) hij]

theorem missingSlot_of_one_missing (hothers : ∀ i, i < cfg.G → i ≠ j → d.has i = true) (hj : d.has j = false)
    (hjG : j < cfg.G) : missingSlot cfg d = j := by
  have hfind : (List.range cfg.G).find? (fun i => !d.has i) = some j := by
    rw [List.find?_range_eq_some]
    exact ⟨by simp [hj], List.mem_range.2 hjG, fun i hi => by simp [hothers i (hi.trans hjG) hi.ne]⟩
  rw [missingSlot, hfind, Option.getD_some]

/-- The parity and the other slots give the missing payload (R660 case 2, R665). -/
theorem rebuiltSlot_of_one_missing (hds : ds.length = cfg.G) (hlen : ∀ p ∈ ds, p.length = cfg.L)
    (hpresent : presentData cfg d = (List.range cfg.G).erase j) (hjG : j < cfg.G)
    (hslots : ∀ i, i < cfg.G → i ≠ j → d.slot[i]? = ds[i]?)
    (hparity : d.slot[cfg.G]? = some (xorAll cfg.L ds)) : rebuiltSlot cfg d = ds.getD j [] := by
  have hperm : ds.Perm (ds.getD j [] :: (presentData cfg d).map d.slotAt) := by
    have hmap : (presentData cfg d).map d.slotAt = ((List.range cfg.G).erase j).map (ds.getD · []) := by
      rw [hpresent]
      refine List.map_congr_left fun i hi => ?_
      obtain ⟨hne, hi⟩ := List.nodup_range.mem_erase_iff.1 hi
      simp only [DecUnit.slotAt, List.getD_eq_getElem?_getD, hslots i (List.mem_range.1 hi) hne]
    have hsplit := (List.perm_cons_erase (List.mem_range.2 hjG)).map (ds.getD · [])
    rwa [← hds, map_getD_range, List.map_cons, hds, ← hmap] at hsplit
  rw [rebuiltSlot, d.slotAt_of_getElem? hparity, ← foldl_xorBytes_xorAll hperm hlen, List.foldl_map]

/-- Writing the missing payload back completes the slots. -/
theorem slot_set_of_one_missing {par : List Byte} (hds : ds.length = cfg.G) (hjG : j < cfg.G)
    (hn : d.slot.length = cfg.G + 1) (hslots : ∀ i, i < cfg.G → i ≠ j → d.slot[i]? = ds[i]?)
    (hparity : d.slot[cfg.G]? = some par) : d.slot.set j (ds.getD j []) = ds ++ [par] := by
  refine List.ext_getElem? fun i => ?_
  rcases Nat.lt_trichotomy i cfg.G with hi | rfl | hi
  · rw [List.getElem?_append_left (by omega), List.getElem?_set]
    by_cases hij : j = i
    · subst hij; simp [hn, hds, hi, hi.trans_le (Nat.le_succ _)]
    · rw [if_neg hij, hslots i hi (Ne.symm hij)]
  · rw [List.getElem?_set_ne hjG.ne, hparity, ← hds, List.getElem?_concat_length]
  · rw [List.getElem?_eq_none (by simp; omega), List.getElem?_eq_none (by simp; omega)]

end

/-- A unit whose first `G` slots are `ds` flushes to `ds`. -/
theorem slotBytes_range_of_slot {d : DecUnit} {ds : List (List Byte)} {par : List Byte} (h : d.slot = ds ++ [par]) :
    slotBytes d (List.range ds.length) = ds.flatten := by
  have hmap : (List.range ds.length).map d.slotAt = (List.range ds.length).map (ds.getD · []) :=
    List.map_congr_left fun i hi => by rw [DecUnit.slotAt, h, List.getD_append _ _ _ _ (List.mem_range.1 hi)]
  rw [slotBytes, hmap, map_getD_range]

/-- Settles O47: the one gap and the parity make the flush R660's case 2, which writes the missing payload back. -/
theorem groupFlushRebuildsOneMissingSlot : Obligations.GroupFlushRebuildsOneMissingSlot := by
  intro cfg d ds j hds hlen hjG hn hothers hj hparity hpar
  have hhas : ∀ i, i < cfg.G → i ≠ j → d.has i = true := fun i hi hne => (d.has_iff i).2 (hothers i hi hne).2
  have hjmiss : d.has j = false := by rw [d.has_eq, hj]; rfl
  have hpresent := presentData_of_one_missing hhas hjmiss
  have hslots : ∀ i, i < cfg.G → i ≠ j → d.slot[i]? = ds[i]? := fun i hi hne => (hothers i hi hne).1
  have hslot : (recoverSlot cfg d).slot = ds ++ [xorAll cfg.L ds] := by
    rw [recoverSlot_slot, missingSlot_of_one_missing hhas hjmiss hjG,
      rebuiltSlot_of_one_missing hds hlen hpresent hjG hslots hparity]
    exact slot_set_of_one_missing hds hjG hn hslots hparity
  have hcount : (presentData cfg d).length = cfg.G - 1 := by
    rw [hpresent, List.length_erase_of_mem (List.mem_range.2 hjG), List.length_range]
  rcases groupFlush_cases cfg d with ⟨hall, -⟩ | ⟨-, -, -, heq⟩ | ⟨-, hnot, -⟩
  · omega
  · rw [heq]
    refine ⟨by rw [← hds, slotBytes_range_of_slot hslot], ?_⟩
    rw [← hslot]
    rfl
  · exact absurd ⟨hcount, (d.has_iff cfg.G).2 hpar⟩ hnot

/-! ### The encoder's parity -/

theorem encFeed_data {cfg : Config} {e : EncUnit} {m : Nat} (hd : e.state = .data) (hm : cfg.F ≤ m)
    (inp : List Byte) : encFeed cfg e inp m = encDataStep cfg e inp := by
  have hroom : ¬ m < cfg.F := by omega
  simp [encFeed, hd, hroom]

/-- An ordinary chunk with room in the group, whole (R711, R713). -/
theorem encFeed_ordinary {cfg : Config} {e : EncUnit} {inp ch : List Byte} {m k : Nat} (hd : e.state = .data)
    (hm : cfg.F ≤ m) (hstage : e.stage.length = cfg.L) (hcnt : e.stageCnt ≤ cfg.L) (hk : k = cfg.L - e.stageCnt)
    (hn : k ≤ inp.length) (hch : ch = e.stage.take e.stageCnt ++ inp.take k) (hne : ch ≠ cfg.eos)
    (hroom : e.slotCnt.toNat < cfg.G) :
    encFeed cfg e inp m =
      ({ e with
          stage := ch
          stageCnt := 0
          parityAcc := xorBytes e.parityAcc ch
          slotCnt := e.slotCnt + 1
          scr := (frameBuild cfg 0x03 e.groupId e.slotCnt ch).2
          cntData := e.cntData + 1 },
        ⟨k, (frameBuild cfg 0x03 e.groupId e.slotCnt ch).1, .cont, 0⟩) := by
  subst hk
  obtain ⟨htaken, hstaged⟩ := encStage_chunk hstage hcnt hn
  rw [← hch] at hstaged
  have htake : ch.take cfg.L = ch := List.take_of_length_le (by simp [hch]; omega)
  rw [encFeed_data hd hm]
  rcases encDataStep_cases cfg e inp with ⟨hlt, -⟩ | ⟨-, heos, -⟩ | ⟨-, -, hfull, -⟩ | ⟨-, -, -, heq⟩
  · simp [hstaged] at hlt
  · exact absurd (by simpa [hstaged, htake] using heos) hne
  · omega
  · rw [heq, hstaged, htaken]
    simp only [htake]
    rfl

/-- In a group with room for `chunks`, whatever it holds, each chunk enters the parity, takes the next slot and
is counted (R652, R713). -/
theorem encFeedChunks_ordinary {cfg : Config} {m : Nat} (hv : cfg.valid = true) (hm : cfg.F ≤ m)
    (chunks : List (List Byte)) (e : EncUnit) (hd : e.state = .data) (hcnt : e.stageCnt = 0)
    (hstage : e.stage.length = cfg.L) (hroom : e.slotCnt.toNat + chunks.length ≤ cfg.G)
    (hch : ∀ ch ∈ chunks, ch.length = cfg.L ∧ ch ≠ cfg.eos) :
    (encFeedChunks cfg m chunks e).parityAcc = chunks.foldl xorBytes e.parityAcc ∧
    (encFeedChunks cfg m chunks e).slotCnt.toNat = e.slotCnt.toNat + chunks.length ∧
    (encFeedChunks cfg m chunks e).state = .data ∧
    (encFeedChunks cfg m chunks e).groupId = e.groupId ∧
    (encFeedChunks cfg m chunks e).cntData = e.cntData + BitVec.ofNat 32 chunks.length := by
  induction chunks generalizing e with
  | nil => exact ⟨rfl, rfl, hd, rfl, by simp [encFeedChunks]⟩
  | cons ch rest ih =>
    obtain ⟨⟨hlen, hne⟩, hrest⟩ := List.forall_mem_cons.1 hch
    rw [List.length_cons] at hroom
    have hG := Config.G_le hv
    have hsucc : (e.slotCnt + 1).toNat = e.slotCnt.toNat + 1 := by
      rw [BitVec.toNat_add]; exact Nat.mod_eq_of_lt (by simp; omega)
    have hstep := encFeed_ordinary (k := cfg.L) (ch := ch) hd hm hstage (by omega) (by omega) hlen.ge
      (by simp [hcnt, ← hlen]) hne (by omega)
    have hleft : (e.slotCnt + 1).toNat + rest.length ≤ cfg.G := by omega
    have hnext := ih (encFeed cfg e ch m).1
    rw [hstep] at hnext
    rw [encFeedChunks, hstep]
    obtain ⟨hparity, hslot, hstate, hgid, hcount⟩ := hnext hd rfl hlen hleft hrest
    refine ⟨hparity, ?_, hstate, hgid, ?_⟩
    · rw [hslot, hsucc, List.length_cons]; omega
    · rw [hcount, List.length_cons, Nat.add_comm, BitVec.ofNat_add]
      exact BitVec.add_assoc _ _ _

/-- Settles O44: the accumulator starts as `zeros(L)`, from which the group's XOR is folded (R650). -/
theorem encParityIsTheXorOfTheGroup : Obligations.EncParityIsTheXorOfTheGroup := by
  intro cfg m chunks e hv hm hd hslot hcnt hparity hstage hG hch
  have hempty : e.slotCnt.toNat = 0 := by rw [hslot]; rfl
  have hgroup := encFeedChunks_ordinary hv hm chunks e hd hcnt hstage (by omega) hch
  rwa [hparity, hempty, Nat.zero_add] at hgroup

end Sys2Proof.Machine
end

section
/-! PROOFS. The encoder's state entries, its reset, and each way a feed step ends (46_encoder_fsm.md R701 to R714, R720).
A feed step with room is settled by the state alone outside DATA, and in DATA by the staged chunk once it is whole. -/

namespace Sys2Proof.Machine

/-! ### State entries and the reset -/

/-- A state entry, told by the state it ends in (R701). -/
theorem encEnter_eq_ite (cfg : Config) (S : EncState) (e : EncUnit) :
    encEnter cfg S e =
      if encEntered cfg S = .data then encEnterData cfg e else encArrive (encEntered cfg S) e := by
  rcases encEnter_spec cfg S e with ⟨hdata, henter⟩ | ⟨hdata, henter⟩
  · rw [henter, if_pos hdata]
  · rw [henter, if_neg hdata]

/-- Settles O39: the state named there is the one the entry ends in. -/
theorem encEnterSkipsEmptyPhases : Obligations.EncEnterSkipsEmptyPhases := by
  intro cfg S S' e hS'
  have hentered : S' = encEntered cfg S := by
    rw [hS']
    cases S <;> simp only [encEntered, ne_eq, ite_not]
  rw [encEnter_eq_ite, ← hentered]
  by_cases hdata : S' = .data
  · rw [if_pos hdata, if_pos hdata, hdata]
    rfl
  · rw [if_neg hdata, if_neg hdata]
    rfl

/-- Settles O35: the reset enters TRAINING from an all-zero unit, and DATA is reached past two phases of count 0. -/
theorem encResetStartsASession : Obligations.EncResetStartsASession := by
  intro s
  refine ⟨encResetUnit s.cfg, rfl, ?_⟩
  rw [encResetUnit, encEnter_eq_ite]
  by_cases htrain : s.cfg.nTrain = 0
  · by_cases hstart : s.cfg.nStart = 0
    · simp [encEntered, htrain, hstart, encEnterData, encArrive]
    · simp [encEntered, htrain, hstart, encArrive]
  · simp [encEntered, htrain, encArrive]

/-! ### Feed steps outside DATA -/

/-- ENC.FEED commits what its feed step gives (R721). -/
theorem exec_encFeed_of_eq {s : State} {p : EncUnit × Response} (h : encFeed s.cfg s.enc s.inSlice s.cap = p) :
    exec .encFeed s = .next { s with enc := p.1, response := some p.2 } :=
  congrArg (Host.Outcome.next <| s.commitEnc ·) h

/-- DEC.FEED commits what its feed step gives (47_decoder_fsm.md R821). -/
theorem exec_decFeed_of_eq {s : State} {p : DecUnit × Response} (h : decFeed s.cfg s.dec s.inSlice s.cap = p) :
    exec .decFeed s = .next { s with dec := p.1, response := some p.2 } :=
  congrArg (Host.Outcome.next <| s.commitDec ·) h

/-- Settles O36: both feed steps test for FINISHED before anything else. -/
theorem feedsInFinishedAnswerDone : Obligations.FeedsInFinishedAnswerDone := fun _ =>
  ⟨fun hs => exec_encFeed_of_eq (if_pos hs), fun hs => exec_decFeed_of_eq (if_pos hs)⟩

/-- Settles O37: the room is tested before the state is told apart. -/
theorem encFeedWithoutRoomDoesNothing : Obligations.EncFeedWithoutRoomDoesNothing := fun _ hs hm =>
  exec_encFeed_of_eq ((if_neg hs).trans (if_pos hm))

/-- A feed step with room, in a repeat phase (R702, R708). -/
theorem encFeed_repeat {cfg : Config} {e : EncUnit} {m : Nat} (hm : cfg.F ≤ m) (inp : List Byte) :
    (e.state = .training → encFeed cfg e inp m = encRepeat cfg .training cfg.nTrain .start e) ∧
    (e.state = .start → encFeed cfg e inp m = encRepeat cfg .start cfg.nStart .data e) ∧
    (e.state = .endPhase → encFeed cfg e inp m = encRepeat cfg .endFrame cfg.nEnd .finished e) := by
  refine ⟨fun hs => ?_, fun hs => ?_, fun hs => ?_⟩ <;> simp [encFeed, hs, hm.not_gt]

/-- Settles O38, phase by phase: emitting counts the frame in its type's counter, and the phase count goes up by one. -/
theorem encFeedRepeatPhaseEmitsOneFrame : Obligations.EncFeedRepeatPhaseEmitsOneFrame := by
  rintro s type N after base e1 f hm rfl rfl hphase
  obtain ⟨htrain, hstart, hend⟩ := encFeed_repeat (e := s.enc) hm s.inSlice
  rcases hphase with ⟨hs, rfl, rfl, rfl, rfl⟩ | ⟨hs, rfl, rfl, rfl, rfl⟩ | ⟨hs, rfl, rfl, rfl, rfl⟩
  · exact exec_encFeed_of_eq (htrain hs)
  · exact exec_encFeed_of_eq (hstart hs)
  · exact exec_encFeed_of_eq (hend hs)

/-! ### Feed steps in DATA -/

/-- Input that does not fill the stage enters it whole (R711). -/
theorem encStage_incomplete {cfg : Config} {e : EncUnit} {inp : List Byte} (h : e.stageCnt + inp.length < cfg.L) :
    encTaken cfg e inp = inp.length ∧
    encStage cfg e inp =
      { e with
        stage := e.stage.take e.stageCnt ++ inp ++ e.stage.drop (e.stageCnt + inp.length)
        stageCnt := e.stageCnt + inp.length } := by
  have htaken : encTaken cfg e inp = inp.length := min_eq_right (by omega)
  exact ⟨htaken, by simp only [encStage, htaken, List.take_length]⟩

/-- Settles O40: the stage stays short of `L` bytes, so no chunk is processed. -/
theorem encFeedStagesIncompleteChunks : Obligations.EncFeedStagesIncompleteChunks := by
  intro s hd hm hshort
  obtain ⟨htaken, hstaged⟩ := encStage_incomplete hshort
  have hlt : (encStage s.cfg s.enc s.inSlice).stageCnt < s.cfg.L := by rw [hstaged]; exact hshort
  refine exec_encFeed_of_eq (p := (_, _)) ?_
  rw [encFeed_data hd hm, encDataStep, if_pos hlt, hstaged, htaken]

section
variable {cfg : Config} {e : EncUnit} {inp ch : List Byte} {m k : Nat}

/-- A feed step whose input completes a chunk processes it, the stage holding the chunk (R711). -/
theorem encFeed_chunk (hd : e.state = .data) (hm : cfg.F ≤ m) (hstage : e.stage.length = cfg.L)
    (hcnt : e.stageCnt ≤ cfg.L) (hk : k = cfg.L - e.stageCnt) (hn : k ≤ inp.length)
    (hch : ch = e.stage.take e.stageCnt ++ inp.take k) :
    encFeed cfg e inp m = encChunk cfg { e with stage := ch, stageCnt := cfg.L } k := by
  subst hk hch
  obtain ⟨htaken, hstaged⟩ := encStage_chunk hstage hcnt hn
  have hfull : ¬ (encStage cfg e inp).stageCnt < cfg.L := by rw [hstaged]; exact lt_irrefl _
  rw [encFeed_data hd hm, encDataStep, if_neg hfull, hstaged, htaken]

/-- A completed chunk has `L` bytes, so all of it is the chunk processed (R711). -/
theorem completedChunk_take (hstage : e.stage.length = cfg.L) (hcnt : e.stageCnt ≤ cfg.L) (hk : k = cfg.L - e.stageCnt)
    (hch : ch = e.stage.take e.stageCnt ++ inp.take k) : ch.take cfg.L = ch :=
  List.take_of_length_le (by simp [hch]; omega)

theorem encChunk_of_eos (h : e.stage.take cfg.L = cfg.eos) : encChunk cfg e k = encSentinel cfg e k := if_pos h

theorem encChunk_of_full (hne : e.stage.take cfg.L ≠ cfg.eos) (hfull : e.slotCnt.toNat = cfg.G) :
    encChunk cfg e k = encFullGroup cfg e k := (if_neg hne).trans (if_pos hfull)

/-- The sentinel after an empty group (R712). -/
theorem encSentinel_of_empty (h : e.slotCnt = 0) :
    encSentinel cfg e k = (encEnter cfg .endPhase { e with stageCnt := 0 }, ⟨k, [], .cont, 0⟩) := by
  simp [encSentinel, h]

/-- The sentinel after a group that holds data (R712). -/
theorem encSentinel_of_nonempty (h : e.slotCnt ≠ 0) :
    encSentinel cfg e k =
      (encEnter cfg .endPhase
        { e with
          stageCnt := 0
          scr := (frameBuild cfg 0x04 e.groupId (BitVec.ofNat 8 cfg.G) e.parityAcc).2
          cntParity := e.cntParity + 1 },
        ⟨k, (frameBuild cfg 0x04 e.groupId (BitVec.ofNat 8 cfg.G) e.parityAcc).1, .cont, 0⟩) := by
  have hpos : 0 < e.slotCnt.toNat := Nat.pos_of_ne_zero fun hzero => h (BitVec.eq_of_toNat_eq hzero)
  rw [encSentinel, if_pos hpos]
  rfl

end

/-- Settles O41: the staged chunk is the sentinel, and `ENC_SLOT_CNT` tells whether the group holds data. -/
theorem encFeedSentinelEntersEnd : Obligations.EncFeedSentinelEntersEnd := by
  intro s k e1 out hd hm hstage hcnt hk hn heos hout
  have htake := completedChunk_take hstage hcnt hk heos.symm
  have hchunk := (encFeed_chunk hd hm hstage hcnt hk hn heos.symm).trans (encChunk_of_eos htake)
  split at hout
  next hempty =>
    obtain ⟨rfl, rfl⟩ := hout
    exact exec_encFeed_of_eq (hchunk.trans (encSentinel_of_empty hempty))
  next hdata =>
    obtain ⟨rfl, rfl⟩ := hout
    exact exec_encFeed_of_eq (hchunk.trans (encSentinel_of_nonempty hdata))

/-- Settles O42: the chunk stays in the stage while the group's PARITY frame is emitted. -/
theorem encFeedFullGroupEmitsParity : Obligations.EncFeedFullGroupEmitsParity := by
  intro s k ch hd hm hstage hcnt hk hn hch hne hfull
  have hchunk := encFeed_chunk hd hm hstage hcnt hk hn hch
  have htake := completedChunk_take hstage hcnt hk hch
  exact exec_encFeed_of_eq (hchunk.trans (encChunk_of_full (by rwa [htake]) hfull))

/-- Settles O43: the feed step of an ordinary chunk, committed. -/
theorem encFeedOrdinaryChunkEmitsData : Obligations.EncFeedOrdinaryChunkEmitsData :=
  fun _ _ _ hd hm hstage hcnt hk hn hch hne hroom =>
    exec_encFeed_of_eq (encFeed_ordinary hd hm hstage hcnt hk hn hch hne hroom)

end Sys2Proof.Machine
end

section
/-! PROOFS. The order of the states (46_encoder_fsm.md R700, 47_decoder_fsm.md R800). A command writes a unit's state
through that unit's reset or feed alone; a feed step stays in its state or enters a later one. -/

namespace Sys2Proof.Machine

/-! ### The encoder -/

theorem encEnter_state (cfg : Config) (S : EncState) (e : EncUnit) :
    (encEnter cfg S e).state = encEntered cfg S := by
  rcases encEnter_spec cfg S e with ⟨hdata, henter⟩ | ⟨-, henter⟩ <;> rw [henter]
  · exact hdata.symm
  · rfl

/-- A state entry ends in the state entered or a later one (R701). -/
theorem rank_le_encEnter (cfg : Config) (S : EncState) (e : EncUnit) : S.rank ≤ (encEnter cfg S e).state.rank := by
  rw [encEnter_state]
  exact encEntered_code_le cfg S

@[simp] theorem encEmit_state (cfg : Config) (type : FrameType) (gid sid : Byte) (p : List Byte) (e : EncUnit) :
    (encEmit cfg type gid sid p e).1.state = e.state := by
  obtain ⟨-, _, _, _, _, _, hemit⟩ := encEmit_frame cfg type gid sid p e
  rw [hemit]

/-- A repeat phase goes on, or on to the state that comes after it (R708). -/
theorem rank_le_encRepeat {cfg : Config} {type : FrameType} {N : Nat} {after : EncState} {e : EncUnit}
    (hafter : e.state.rank ≤ after.rank) : e.state.rank ≤ (encRepeat cfg type N after e).1.state.rank := by
  simp only [encRepeat]
  split
  · exact hafter.trans (rank_le_encEnter cfg after _)
  · simp

/-- A DATA step stays in DATA or enters END (R711 to R714). -/
theorem rank_le_encDataStep {cfg : Config} {e : EncUnit} (hd : e.state = .data) (inp : List Byte) :
    e.state.rank ≤ (encDataStep cfg e inp).1.state.rank := by
  rcases encDataStep_cases cfg e inp with ⟨-, heq⟩ | ⟨-, -, heq⟩ | ⟨-, -, -, heq⟩ | ⟨-, -, -, heq⟩
  · rw [heq, encStage_state]
  · have hend : e.state.rank ≤ EncState.rank .endPhase := by rw [hd]; decide
    rw [heq]
    exact hend.trans (rank_le_encEnter cfg .endPhase _)
  · simp [heq, encFullGroup, encEmitParity]
  · simp [heq, encOrdinary]

/-- ENC.FEED never takes the encoder back (R700). -/
theorem rank_le_encFeed (cfg : Config) (e : EncUnit) (inp : List Byte) (m : Nat) :
    e.state.rank ≤ (encFeed cfg e inp m).1.state.rank := by
  rcases encFeed_cases cfg e inp m with ⟨-, heq⟩ | ⟨-, -, heq⟩ | ⟨-, hs, heq⟩ | ⟨-, hs, heq⟩ | ⟨-, hs, heq⟩ |
    ⟨-, hs, heq⟩
  · rw [heq]
  · rw [heq]
  · rw [heq]; exact rank_le_encRepeat (by rw [hs]; decide)
  · rw [heq]; exact rank_le_encRepeat (by rw [hs]; decide)
  · rw [heq]; exact rank_le_encRepeat (by rw [hs]; decide)
  · rw [heq]; exact rank_le_encDataStep hs inp

/-! ### The decoder -/

@[simp] theorem decFile_state (cfg : Config) (p : Parsed) (d : DecUnit) : (decFile cfg p d).1.state = d.state := by
  obtain ⟨_, _, _, _, hfile, -⟩ := decFile_frame cfg p d
  rw [hfile]

/-- Before FINISHED, a dispatched frame leaves the state as it is, except START, which enters RECEIVING, and END, which
enters FINISHED (R811 to R815). -/
theorem rank_le_decDispatch {d : DecUnit} (cfg : Config) (p : Parsed) (hs : d.state ≠ .finished) :
    d.state.rank ≤ (decDispatch cfg p d).1.state.rank := by
  unfold decDispatch
  cases FrameType.ofCode p.type with
  | none => exact le_rfl
  | some type =>
    cases type with
    | training => exact le_rfl
    | start =>
      change d.state.rank ≤ DecState.rank .receiving
      cases hstate : d.state with
      | training | receiving => decide
      | finished => exact absurd hstate hs
    | endFrame =>
      change d.state.rank ≤ DecState.rank .finished
      cases d.state <;> decide
    | data => simp only [decDataFrame]; split <;> simp
    | parity => simp only [decParityFrame]; split <;> simp

/-- Of a frame attempt's ends, a dispatch alone writes the state (R803 to R809). -/
theorem rank_le_decAttempt {d : DecUnit} (cfg : Config) (hs : d.state ≠ .finished) :
    d.state.rank ≤ (decAttempt cfg d).1.state.rank := by
  rcases decAttempt_cases cfg d with ⟨-, heq⟩ | ⟨o, s, -, ⟨-, heq⟩ | ⟨p, -, ⟨-, heq⟩ | ⟨-, heq⟩⟩⟩
  · rw [heq, decDiscard_state]
  · rw [heq, decDiscard_state]
  · rw [heq]
  · rw [heq]
    exact rank_le_decDispatch (d := { d with rx := d.rx.drop (o + 4 + cfg.R), scr := p.sEnd }) cfg p hs

/-- DEC.FEED never takes the decoder back (R800). -/
theorem rank_le_decFeed (cfg : Config) (d : DecUnit) (inp : List Byte) (m : Nat) :
    d.state.rank ≤ (decFeed cfg d inp m).1.state.rank := by
  rcases decFeed_cases cfg d inp m with ⟨-, heq⟩ | ⟨-, -, heq⟩ | ⟨hs, -, heq⟩
  · rw [heq]
  · rw [heq, decAccept_state]
  · rw [heq]
    exact rank_le_decAttempt (d := decAccept cfg d inp) cfg hs

/-! ### Every command -/

/-- Settles O45: of all a command can write, the unit's reset and feed alone reach its state, and the feed goes on. -/
theorem onlyUnitResetsGoBack : Obligations.OnlyUnitResetsGoBack := by
  intro i s t hexec
  rcases exec_next hexec with ⟨_, _, _, _, rfl⟩ | ⟨-, _, _, _, _, _, -, rfl⟩ | ⟨hi, rfl⟩ | ⟨hi, rfl⟩ | ⟨hi, rfl⟩ |
    ⟨hi, rfl⟩
  · exact ⟨fun _ => ⟨le_rfl, fun _ => rfl⟩, fun _ => ⟨le_rfl, fun _ => rfl⟩⟩
  · exact ⟨fun _ => ⟨le_rfl, fun _ => rfl⟩, fun _ => ⟨le_rfl, fun _ => rfl⟩⟩
  · exact ⟨fun hne => absurd hi hne, fun _ => ⟨le_rfl, fun _ => rfl⟩⟩
  · exact ⟨fun _ => ⟨rank_le_encFeed .., fun hne => absurd hi hne⟩, fun _ => ⟨le_rfl, fun _ => rfl⟩⟩
  · exact ⟨fun _ => ⟨le_rfl, fun _ => rfl⟩, fun hne => absurd hi hne⟩
  · exact ⟨fun _ => ⟨le_rfl, fun _ => rfl⟩, fun _ => ⟨rank_le_decFeed .., fun hne => absurd hi hne⟩⟩

end Sys2Proof.Machine
end

section
/-! PROOFS. Control, the host's contract and power-on reset (48_control.md R880, 60_exceptions.md R900, R905,
70_reset_and_hazards.md R950, R951). A breach is refused before the command runs; of the sixteen commands SYNC.SEARCH
alone can refuse by itself, and no slice within `MAX_SLICE` is long enough for that. -/

namespace Sys2Proof.Machine

/-! ### NOP -/

/-- Settles O14: the opcode alone selects NOP, and NOP writes the response alone. -/
theorem nopChangesNothing : Obligations.NopChangesNothing :=
  ⟨fun _ => rfl, fun _ hop => decode_of_opcode (i := .nop) hop⟩

/-! ### Breaches of the host's contract -/

section
variable {s : State} {c : Command} {rest : List HostEvent} {i : Instr}

/-- A step refuses what was refused on fetching. -/
theorem step_refused {r : Refusal} (h : fetch s = .refuse r) : step s = .refused r := by
  simp only [step, h]

/-- A configuration that breaks R11 defines no block, whatever is presented (R9). -/
theorem fetch_badConfiguration (hv : s.cfg.valid = false) : fetch s = .refuse .badConfiguration := by
  simp only [fetch, hv, Bool.false_eq_true, if_false]

/-- A breach is refused before the command runs (R905). -/
theorem step_breach {r : Refusal} (hv : s.cfg.valid = true) (hp : s.pending = .command c :: rest)
    (hd : decode c.word = .ok i) (hc : contractBreach s.cfg c i = some r) : step s = .refused r := by
  refine step_refused ((fetch_command hv hp).trans ?_)
  simp only [issue, hd, hc]

/-- A command to a unit that is busy is a breach (20_memory.md R207). -/
theorem contractBreach_busy {cfg : Config} {u : CmdUnit} (hu : unitOf i = some u) (hbusy : u ∈ c.busy) :
    contractBreach cfg c i = some .unitBusy := by
  simp only [contractBreach, hu, List.contains_iff_mem, hbusy, if_true]

/-- A slice beyond `MAX_SLICE` is a breach, when the unit is free or the command names none
(93_implementation_defined.md H3). -/
theorem contractBreach_tooLong {cfg : Config} (hfree : ∀ u, unitOf i = some u → u ∉ c.busy)
    (hlong : cfg.maxSlice < c.inSlice.length) : contractBreach cfg c i = some .sliceTooLong := by
  unfold contractBreach
  cases hu : unitOf i with
  | none => exact if_pos hlong
  | some u => simp only [List.contains_iff_mem, hfree u hu, if_false, hlong, if_true]

end

/-- Settles O6: three breaches are refused by the step, and the fourth by SYNC.SEARCH itself. -/
theorem hostContractBreachesAreRefused : Obligations.HostContractBreachesAreRefused := by
  refine ⟨?config, ?busy, ?bound, ?search⟩
  case config => exact fun s hv => step_refused (fetch_badConfiguration hv)
  case busy => exact fun s c rest i u hv hp hd hu hbusy => step_breach hv hp hd (contractBreach_busy hu hbusy)
  case bound => exact fun s c rest i hv hp hd hfree hlong => step_breach hv hp hd (contractBreach_tooLong hfree hlong)
  case search => exact fun s hlong => if_pos hlong

/-! ### A host that keeps its contract -/

/-- On a slice below `2^28` bytes every command answers (R900). -/
theorem exec_answers (i : Instr) {s : State} (h : s.n < 2 ^ 28) : ∃ t, exec i s = .next t := by
  cases i with
  | syncSearch => exact ⟨_, exec_syncSearch h⟩
  | frameBuild type gid sid =>
    change ∃ t, execFrameBuild type gid sid s = .next t
    unfold execFrameBuild
    split <;> exact ⟨_, rfl⟩
  | frameParse sh o =>
    change ∃ t, execFrameParse sh o s = .next t
    unfold execFrameParse
    split
    · exact ⟨_, rfl⟩
    · split <;> exact ⟨_, rfl⟩
  | _ => exact ⟨_, rfl⟩

/-- The contract speaks of the configuration and of what is pending alone. -/
theorem HostAbides.of_subset {s t : State} (h : HostAbides s) (hcfg : t.cfg = s.cfg) (hsub : t.pending ⊆ s.pending) :
    HostAbides t := by
  obtain ⟨hv, hkeep⟩ := h
  exact ⟨hcfg ▸ hv, fun c hc => hcfg ▸ hkeep c (hsub hc)⟩

/-- A presented command of an abiding host breaks no clause of the contract. -/
theorem HostAbides.contractBreach_none {s : State} (h : HostAbides s) {c : Command} {rest : List HostEvent}
    (hp : s.pending = .command c :: rest) (i : Instr) : contractBreach s.cfg c i = none := by
  obtain ⟨-, hkeep⟩ := h
  obtain ⟨hidle, hlen⟩ := hkeep c (by simp [hp])
  exact (contractBreach_none_iff s.cfg c i).2 ⟨fun u _ => by simp [hidle], hlen⟩

/-- A presented slice of an abiding host is short enough for SYNC.SEARCH (92_eei_decisions.md D46). -/
theorem HostAbides.slice_lt {s : State} (h : HostAbides s) {c : Command} {rest : List HostEvent}
    (hp : s.pending = .command c :: rest) : c.inSlice.length < 2 ^ 28 := by
  obtain ⟨hv, hkeep⟩ := h
  obtain ⟨-, hlen⟩ := hkeep c (by simp [hp])
  exact hlen.trans_lt (Config.maxSlice_lt hv)

/-- An abiding host's event always comes to a next state (R900, R905). -/
theorem HostAbides.step_answers {s : State} (h : HostAbides s) : ∃ t, step s = .next t := by
  have ⟨hv, _⟩ := h
  rcases fetch_cases s with ⟨hbad, -⟩ | ⟨-, -, hf⟩ | ⟨rest, -, -, hf⟩ | ⟨c, rest, -, hp, hf⟩
  · exact Bool.noConfusion (hv.symm.trans hbad)
  · exact ⟨_, step_ended hf⟩
  · exact ⟨_, step_ended hf⟩
  · rcases issue_cases s c rest with ⟨r, -, hi⟩ | ⟨i, r, -, hbreach, -⟩ | ⟨i, -, -, hi⟩
    · exact ⟨_, step_ended (hf.trans hi)⟩
    · rw [h.contractBreach_none hp i] at hbreach
      cases hbreach
    · obtain ⟨t, ht⟩ := exec_answers i (s := s.present c rest) (h.slice_lt hp)
      exact ⟨t, (step_run (hf.trans hi)).trans ht⟩

/-- A step keeps the configuration, and what is pending afterwards was pending before. -/
theorem step_cfg_pending {s t : State} (h : step s = .next t) : t.cfg = s.cfg ∧ t.pending ⊆ s.pending := by
  rcases step_next h with ⟨-, rfl⟩ | ⟨rest, hp, rfl⟩ | ⟨c, rest, _, hp, -, rfl⟩ | ⟨c, rest, i, hp, -, hexec⟩
  · exact ⟨rfl, List.Subset.refl _⟩
  · exact ⟨rfl, by simp [hp]⟩
  · exact ⟨rfl, by simp [hp]⟩
  · obtain ⟨hcfg, -, -, hpending⟩ := exec_interface hexec
    exact ⟨hcfg, by simp [hpending, hp]⟩

/-- Settles O13: the contract rules every refusal out, and a step takes entries off `pending` only. -/
theorem abidingHostIsNeverStopped : Obligations.AbidingHostIsNeverStopped := by
  intro s h
  obtain ⟨t, hstep⟩ := h.step_answers
  obtain ⟨hcfg, hsub⟩ := step_cfg_pending hstep
  exact ⟨t, hstep, h.of_subset hcfg hsub⟩

/-! ### Power-on reset -/

/-- A power-on reset in front of `pending` resets the block (R950). -/
theorem step_powerOnReset {s : State} {rest : List HostEvent} (hv : s.cfg.valid = true)
    (hp : s.pending = .powerOnReset :: rest) : step s = .next (powerOn s.cfg rest) :=
  step_ended (by simp only [fetch, hv, hp, if_true])

/-- Settles O7: the encoder's registers are those ENC.RESET gives it (46_encoder_fsm.md R720). -/
theorem powerOnResetsEveryUnit : Obligations.PowerOnResetsEveryUnit := by
  intro s rest hv hp
  obtain ⟨e, hexec, he⟩ := encResetStartsASession s
  have hunit : encResetUnit s.cfg = e := congrArg State.enc (Host.Outcome.next.inj hexec)
  exact ⟨encResetUnit s.cfg, step_powerOnReset hv hp, hunit.trans he⟩

end Sys2Proof.Machine
end

section
/-! PROOFS. The decoder's reset and each way its feed step ends (47_decoder_fsm.md R801 to R815, R820). The window takes
what it has room for; the search and the parse of that window, and the type of an accepted frame, settle the rest. A
full window is longer than one region, so whatever an attempt finds in it, some byte leaves (R806). -/

namespace Sys2Proof.Machine

/-! ### The reset, and a feed step without room -/

/-- Settles O49: the command commits the unit's reset state. -/
theorem decResetStartsASession : Obligations.DecResetStartsASession := fun _ => rfl

/-- Settles O50: the capacity is tested before the attempt. -/
theorem decFeedWithoutRoomOnlyAccepts : Obligations.DecFeedWithoutRoomOnlyAccepts := by
  rintro s k hs hm rfl
  exact exec_decFeed_of_eq ((if_neg hs).trans (if_pos hm))

/-! ### How an attempt ends -/

section
variable {cfg : Config} {d : DecUnit} {o sh : Nat} {p : Parsed}

/-- No sync word in the window (R804). -/
theorem decAttempt_of_no_sync (hsync : syncSearch cfg d.rx = none) :
    decAttempt cfg d = ({ d with rx := d.rx.drop (d.rx.length - 4) }, []) := by
  simp only [decAttempt, hsync, decDiscard]

/-- A candidate that is not whole (R805). -/
theorem decAttempt_short (hsync : syncSearch cfg d.rx = some (o, sh)) (hparse : frameParse cfg d.rx o sh = none) :
    decAttempt cfg d = ({ d with rx := d.rx.drop o }, []) := by
  simp only [decAttempt, hsync, hparse, decDiscard]

/-- A whole frame whose CRC does not match (R807, R808). -/
theorem decAttempt_rejected (hsync : syncSearch cfg d.rx = some (o, sh)) (hparse : frameParse cfg d.rx o sh = some p)
    (hcrc : p.crcOk = false) :
    decAttempt cfg d = ({ d with rx := d.rx.drop (o + 1), scr := p.sEnd, cntCrcFail := d.cntCrcFail + 1 }, []) := by
  simp only [decAttempt, hsync, hparse, decParsed, hcrc, Bool.false_eq_true, if_false, decDiscard]

end

/-! ### The feed step with an attempt -/

section
variable {s : State} {k o sh : Nat} {win : List Byte} {p : Parsed} {q : DecUnit × List Byte}

/-- DEC.FEED with room commits what the attempt makes of the window after acceptance (R801, R803, R821). -/
theorem exec_decFeed_attempt (hs : s.dec.state ≠ .finished) (hm : s.cfg.G * s.cfg.L ≤ s.cap)
    (hk : k = min s.inSlice.length (s.cfg.rxcap - s.dec.rx.length)) (hwin : win = s.dec.rx ++ s.inSlice.take k)
    (hattempt : decAttempt s.cfg { s.dec with rx := win } = q) :
    exec .decFeed s = .next { s with dec := q.1, response := some ⟨k, q.2, .cont, 0⟩ } := by
  subst hk hwin hattempt
  exact exec_decFeed_of_eq (decFeed_attempt hs hm)

/-- DEC.FEED of an accepted frame commits what its dispatch makes of the rest of the window (R807, R809). -/
theorem exec_decFeed_accepted (hs : s.dec.state ≠ .finished) (hm : s.cfg.G * s.cfg.L ≤ s.cap)
    (hk : k = min s.inSlice.length (s.cfg.rxcap - s.dec.rx.length)) (hwin : win = s.dec.rx ++ s.inSlice.take k)
    (hsync : syncSearch s.cfg win = some (o, sh)) (hparse : frameParse s.cfg win o sh = some p) (hcrc : p.crcOk = true)
    (hdispatch : decDispatch s.cfg p { s.dec with rx := win.drop (o + 4 + s.cfg.R), scr := p.sEnd } = q) :
    exec .decFeed s = .next { s with dec := q.1, response := some ⟨k, q.2, .cont, 0⟩ } :=
  exec_decFeed_attempt hs hm hk hwin
    ((decAttempt_accepted (d := { s.dec with rx := win }) hsync hparse hcrc).trans hdispatch)

end

/-- Settles O51: every window of the stream is beyond `T`, so the search finds nothing. -/
theorem decFeedWithoutSyncKeepsFourBytes : Obligations.DecFeedWithoutSyncKeepsFourBytes := by
  intro s k win hs hm hk hwin hfar
  have hsync : syncSearch s.cfg win = none := (syncSearch_eq_none_iff_distance _ _).2 hfar
  refine ⟨exec_decFeed_attempt hs hm hk hwin (decAttempt_of_no_sync hsync), ?_⟩
  rw [List.length_drop]
  omega

/-- Settles O52: the length given there is that of the realigned window. -/
theorem decFeedShortKeepsTheCandidate : Obligations.DecFeedShortKeepsTheCandidate := by
  intro s k o sh win hs hm hk hwin hsync hshort
  have hparse : frameParse s.cfg win o sh = none :=
    (frameParse_none_iff _ _ _ _).2 (by rwa [realign_length])
  exact exec_decFeed_attempt hs hm hk hwin (decAttempt_short hsync hparse)

/-- Settles O53: the attempt rejects the frame. -/
theorem decFeedCrcMismatchSkipsOneByte : Obligations.DecFeedCrcMismatchSkipsOneByte :=
  fun _ _ _ _ _ _ hs hm hk hwin hsync hparse hcrc =>
    exec_decFeed_attempt hs hm hk hwin (decAttempt_rejected hsync hparse hcrc)

/-! ### The dispatch of an accepted frame -/

/-- A type code names its frame type (R320). -/
theorem ofCode_code (type : FrameType) : FrameType.ofCode type.code = some type := by
  cases type <;> rfl

/-- Every other byte names none (R321). -/
theorem ofCode_of_unlisted {b : Byte} (h : b ∉ ([0x01, 0x02, 0x03, 0x04, 0x05] : List Byte)) :
    FrameType.ofCode b = none := by
  rcases ofCode_cases b with ⟨rfl, -⟩ | ⟨rfl, -⟩ | ⟨rfl, -⟩ | ⟨rfl, -⟩ | ⟨rfl, -⟩ | ⟨-, hnone⟩
  case inr.inr.inr.inr.inr => exact hnone
  all_goals exact absurd h (by decide)

section
variable {p : Parsed} (cfg : Config) (d : DecUnit)

theorem decDispatch_training (h : p.type = FrameType.training.code) : decDispatch cfg p d = decTrainingFrame d := by
  simp only [decDispatch, h, ofCode_code]

theorem decDispatch_start (h : p.type = FrameType.start.code) : decDispatch cfg p d = decStartFrame cfg d := by
  simp only [decDispatch, h, ofCode_code]

theorem decDispatch_end (h : p.type = FrameType.endFrame.code) : decDispatch cfg p d = decEndFrame cfg d := by
  simp only [decDispatch, h, ofCode_code]

theorem decDispatch_data (h : p.type = FrameType.data.code) : decDispatch cfg p d = decDataFrame cfg p d := by
  simp only [decDispatch, h, ofCode_code]

theorem decDispatch_parity (h : p.type = FrameType.parity.code) : decDispatch cfg p d = decParityFrame cfg p d := by
  simp only [decDispatch, h, ofCode_code]

/-- An accepted frame of no type code is ignored (R815). -/
theorem decDispatch_unlisted (h : p.type ∉ ([0x01, 0x02, 0x03, 0x04, 0x05] : List Byte)) :
    decDispatch cfg p d = (d, []) := by
  simp only [decDispatch, ofCode_of_unlisted h]

/-- A payload frame outside RECEIVING is ignored (R815). -/
theorem decDispatch_early (h : p.type = FrameType.data.code ∨ p.type = FrameType.parity.code)
    (hs : d.state ≠ .receiving) : decDispatch cfg p d = (d, []) := by
  rcases h with h | h
  · exact (decDispatch_data cfg d h).trans (if_neg hs)
  · exact (decDispatch_parity cfg d h).trans (if_neg hs)

/-- The group change of R814, told by the group that is current. -/
theorem decAdopt_eq_ite (gid : Byte) :
    decAdopt cfg gid d =
      if d.curGroupValid = true ∧ d.curGroup = gid then (d, [])
      else ({ (groupFlush cfg d).1 with curGroup := gid, curGroupValid := true }, (groupFlush cfg d).2) := by
  have hchange : decChangesGroup d gid = true ↔ ¬ (d.curGroupValid = true ∧ d.curGroup = gid) := by
    simp [decChangesGroup, Classical.or_iff_not_imp_left]
  simp only [decAdopt, hchange, ite_not]

end

/-- Settles O54: TRAINING counts the frame, and the other types named there leave the unit as it is. -/
theorem decFeedTrainingAndIgnoredFrames : Obligations.DecFeedTrainingAndIgnoredFrames := by
  intro s k o sh win p hs hm hk hwin hsync hparse hcrc
  refine ⟨fun htype => ?training, fun hignored => ?ignored⟩
  case training => exact exec_decFeed_accepted hs hm hk hwin hsync hparse hcrc (decDispatch_training _ _ htype)
  case ignored =>
    refine exec_decFeed_accepted hs hm hk hwin hsync hparse hcrc (q := (_, _)) ?_
    rcases hignored with ⟨htraining, htype⟩ | htype
    · exact decDispatch_early _ _ htype (by simp [htraining])
    · exact decDispatch_unlisted _ _ htype

/-- Settles O55: the dispatch clears the buffer and outputs nothing. -/
theorem decFeedStartFrameEntersReceiving : Obligations.DecFeedStartFrameEntersReceiving :=
  fun _ _ _ _ _ _ hs hm hk hwin hsync hparse hcrc htype =>
    exec_decFeed_accepted hs hm hk hwin hsync hparse hcrc (decDispatch_start _ _ htype)

/-- Settles O56: the dispatch outputs the flush. -/
theorem decFeedEndFrameFlushesAndFinishes : Obligations.DecFeedEndFrameFlushesAndFinishes := by
  rintro s k o sh win p f hs hm hk hwin hsync hparse hcrc htype rfl
  exact exec_decFeed_accepted hs hm hk hwin hsync hparse hcrc (decDispatch_end _ _ htype)

/-- Settles O57: both types are filed alike once they are counted, and counting leaves the current group as it is. -/
theorem decFeedPayloadFramesAreFiled : Obligations.DecFeedPayloadFramesAreFiled := by
  intro s k o sh win p d1 f hs hm hk hwin hsync hparse hcrc htype hf
  have hactive : s.dec.state ≠ .finished := by simp [hs]
  have hfiled : decDispatch s.cfg p { s.dec with rx := win.drop (o + 4 + s.cfg.R), scr := p.sEnd } =
      decFile s.cfg p d1 := by
    rcases htype with ⟨htype, rfl⟩ | ⟨htype, rfl⟩
    · exact (decDispatch_data _ _ htype).trans (if_pos hs)
    · exact (decDispatch_parity _ _ htype).trans (if_pos hs)
  have hgroup : d1.curGroupValid = s.dec.curGroupValid ∧ d1.curGroup = s.dec.curGroup := by
    rcases htype with ⟨-, rfl⟩ | ⟨-, rfl⟩ <;> exact ⟨rfl, rfl⟩
  have hadopt : decAdopt s.cfg p.gid d1 = f := by
    obtain ⟨hvalid, hcur⟩ := hgroup
    rw [decAdopt_eq_ite, hvalid, hcur]
    split at hf
    next hsame => rw [hf, if_pos hsame]
    next hchange => rw [hf, if_neg hchange]
  subst hadopt
  exact exec_decFeed_accepted hactive hm hk hwin hsync hparse hcrc hfiled

/-! ### An attempt on a full window -/

theorem groupFlush_rx (cfg : Config) (d : DecUnit) : (groupFlush cfg d).1.rx = d.rx := by
  obtain ⟨_, _, hflush, -⟩ := groupFlush_frame cfg d
  rw [hflush]

@[simp] theorem decFile_rx (cfg : Config) (p : Parsed) (d : DecUnit) : (decFile cfg p d).1.rx = d.rx := by
  obtain ⟨_, _, _, _, hfile, -⟩ := decFile_frame cfg p d
  rw [hfile]

/-- Dispatching a frame leaves the window as it is (R811 to R815). -/
theorem decDispatch_rx (cfg : Config) (p : Parsed) (d : DecUnit) : (decDispatch cfg p d).1.rx = d.rx := by
  unfold decDispatch
  cases FrameType.ofCode p.type with
  | none => rfl
  | some type =>
    cases type with
    | training | start => rfl
    | endFrame => exact groupFlush_rx cfg { d with cntEnd := d.cntEnd + 1 }
    | data => simp only [decDataFrame]; split <;> simp
    | parity => simp only [decParityFrame]; split <;> simp

/-- An attempt on a window longer than the sync word and a region takes a byte off it at least: a candidate at its first
byte is whole there, at any bit shift (R806). -/
theorem decAttempt_rx_length_lt {cfg : Config} {d : DecUnit} (hlong : 4 + cfg.R < d.rx.length) :
    (decAttempt cfg d).1.rx.length < d.rx.length := by
  rcases decAttempt_cases cfg d with ⟨-, heq⟩ | ⟨o, s, -, ⟨hshort, heq⟩ | ⟨p, -, ⟨-, heq⟩ | ⟨-, heq⟩⟩⟩
  · rw [heq, decDiscard_rx, List.length_drop]
    omega
  · have hafter : 0 < o := by
      rw [frameParse_none_iff, realign_length] at hshort
      split at hshort <;> omega
    rw [heq, decDiscard_rx, List.length_drop]
    omega
  · rw [heq, List.length_drop]
    omega
  · rw [heq, decDispatch_rx, List.length_drop]
    omega

/-- A full window accepts nothing (R801). -/
theorem decAccept_of_full {cfg : Config} {d : DecUnit} (hfull : d.rx.length = cfg.rxcap) (inp : List Byte) :
    decAccept cfg d inp = d := by
  simp only [decAccept, decTaken, hfull, Nat.sub_self, Nat.min_zero, List.take_zero, List.append_nil]

/-- Settles O58: a full window holds the sync word, a region and one byte more (00_scope.md R11). -/
theorem fullWindowAlwaysMakesRoom : Obligations.FullWindowAlwaysMakesRoom := by
  intro s t hv hs hfull hm hexec
  have hfeed := exec_decFeed_of_eq (decFeed_attempt (inp := s.inSlice) hs hm)
  rw [decAccept_of_full hfull] at hfeed
  cases hfeed.symm.trans hexec
  have hroom : 4 + s.cfg.R < s.dec.rx.length := hfull ▸ Config.window_fits hv
  exact hfull ▸ decAttempt_rx_length_lt hroom

end Sys2Proof.Machine
end
